-- ==== Sys2Proof/Word.lean ====
section
/-! DEFINITION. The words of the part: bytes and the multi-byte fields of frames (R179), and the small numbered sets of the
numbering conventions (00_scope.md). -/

namespace Sys2Proof

/-- One byte of a frame. -/
abbrev Byte := BitVec 8

/-- A two-byte field of a frame. -/
abbrev Half := BitVec 16

/-- A four-byte field of a frame: account numbers, references, masks. -/
abbrev Word := BitVec 32

/-- A station, which is also the number of its C-link: 0 to 7. -/
abbrev Station := Fin 8

/-- A price tier: 0 to 3. -/
abbrev Tier := Fin 4

/-- A sheet kind: the media class, plus 8 when colour. -/
abbrev SheetKind := Fin 16

end Sys2Proof
end

