-- ==== Sys2Proof/Config.lean ====
section
/-! DEFINITION. What the manual fixes for every part: sizes, bounds, identification codes and parameter defaults. -/

namespace Sys2Proof.Config

/-- Places in the house table (R3). -/
def houseCapacity : Nat := 512
/-- Mirror slots (R7). -/
def mirrorCapacity : Nat := 16
/-- Entries an in-path list may hold (R72). -/
def pathCapacity : Nat := 16
/-- Orders the capture queue may hold (R106). -/
def captureCapacity : Nat := 16
/-- Records the settlement log may hold (R132). -/
def logCapacity : Nat := 256
/-- Most bytes of record images one LOG_READ carries (R141). -/
def logReadBytes : Nat := 119
/-- Most records one LOG_READ carries (R141). -/
def logReadRecords : Nat := 4
/-- Sheets a run may grant (R56). -/
def runLimit : Nat := 9999
/-- Authorizations a session may hold (R96). -/
def authCapacity : Nat := 3
/-- Greatest amount of one authorization (R96). -/
def authAmountMax : Nat := 100000
/-- Greatest amount of one referral grant (R125). -/
def grantMax : Nat := 1000000
/-- Greatest balance of a record (R3, R7). -/
def balanceMax : Int := 99999999
/-- Least balance of a house record (R3). -/
def balanceMin : Int := -10000000
/-- Greatest credit limit (R3). -/
def limitMax : Nat := 10000000
/-- Greatest max runs (R3). -/
def maxRunsMax : Nat := 8
/-- The modulus of every meter (R145). -/
def meterModulus : Nat := 1000000000
/-- Greatest value of a log sequence number and of a price generation, both wrapping to 1 (R133, R31). -/
def wrap16 : Nat := 65535
/-- Greatest referral id, wrapping to 1 (R120). -/
def referralIdMax : Nat := 255
/-- Where a link counter and the head's age stop (R157, R111). -/
def counterStop : Nat := 65535
/-- Where the seconds since the last reset stop (R175). -/
def uptimeStop : Nat := 4294967295
/-- Where the run's jams count stops (R83). -/
def jamsStop : Nat := 255
/-- Longest body of a frame (R152). -/
def bodyMax : Nat := 120

/-- The vendor code IDENTIFY answers (R175). -/
def vendorCode : Nat := 0x5053
/-- The part code IDENTIFY answers (R175). -/
def partCode : Nat := 0x0840
/-- The revision IDENTIFY answers (R175). -/
def revision : Nat := 0x01

/-! Parameter defaults (R172). -/

def holdStepDefault : Nat := 200
def interimIntervalDefault : Nat := 100
def jamAllowanceDefault : Nat := 20
def jamTimerDefault : Nat := 180
def runIdleDefault : Nat := 300
def cardIdleDefault : Nat := 120
def referralTimeoutDefault : Nat := 8
def referralOpenDefault : Nat := 500
def silenceDefault : Nat := 10
def captureStallDefault : Nat := 60

end Sys2Proof.Config
end

