-- ==== Sys2Proof/Syntax.lean ====
section
/-! DEFINITION. The commands of the part: one constructor per row of the opcode table, with the fields of the request's body
(09_console_services_and_formats.md, "Request codes and body lengths"). -/

namespace Sys2Proof

/-- The three kinds of link (R155). -/
inductive LinkKind where
  | station
  | payment
  | management
  deriving DecidableEq, Repr

/-- The ten links: C-link 0 to 7, the P-link and the M-link. -/
inductive Link where
  | c (n : Station)
  | p
  | m
  deriving DecidableEq, Repr

/-- The kind of a link (R155). -/
def Link.kind : Link → LinkKind
  | .c _ => .station
  | .p => .payment
  | .m => .management

/-- The body of a valid frame as the port sees it (R156, check 3): of one of the code's lengths, and then made of the code's
fields, or of a length that is none of them. -/
inductive Body (α : Type) where
  | of (fields : α)
  | wrongLength
  deriving DecidableEq, Repr

/-- One byte received on a link; `faulty` marks a character whose stop bit was found low (R150). -/
structure LineByte where
  value : Byte
  faulty : Bool
  deriving DecidableEq, Repr

structure LoadFields where
  account : Word
  media : Byte
  colour : Byte
  sides : Byte
  deriving DecidableEq, Repr

/-- One ADVANCE override: a tag byte and a value byte (R54). -/
structure Override where
  tag : Byte
  value : Byte
  deriving DecidableEq, Repr

structure AdvanceFields where
  firstSeq : Half
  count : Byte
  overrides : List Override
  deriving DecidableEq, Repr

structure JamFields where
  lastDelivered : Half
  recovered : Byte
  deriving DecidableEq, Repr

structure AuthNoticeFields where
  station : Byte
  reference : Word
  amount : Word
  cardClass : Byte
  deriving DecidableEq, Repr

structure CaptureResultFields where
  reference : Word
  outcome : Byte
  deriving DecidableEq, Repr

structure AcctCreateFields where
  number : Word
  kind : Byte
  tier : Byte
  limit : Word
  balance : Word
  maxRuns : Byte
  deriving DecidableEq, Repr

structure AcctUpdateFields where
  number : Word
  mask : Byte
  tier : Byte
  limit : Word
  maxRuns : Byte
  state : Byte
  delta : Word
  deriving DecidableEq, Repr

/-- `values` is what follows the item byte. -/
structure PriceWriteFields where
  bank : Byte
  tier : Byte
  item : Byte
  values : List Byte
  deriving DecidableEq, Repr

structure PriceReadFields where
  bank : Byte
  tier : Byte
  deriving DecidableEq, Repr

structure CaptureAbandonFields where
  station : Byte
  reference : Word
  deriving DecidableEq, Repr

structure ReferralReplyFields where
  id : Byte
  decision : Byte
  amount : Word
  tier : Byte
  deriving DecidableEq, Repr

structure LinkStatsFields where
  link : Byte
  clear : Byte
  deriving DecidableEq, Repr

/-- The fields of a STATION_SET whose action is the row's own. -/
structure StationSetFields where
  station : Byte
  flags : Option Byte
  deriving DecidableEq, Repr

/-- The fields of a STATION_SET of the row STATION_SET_NONE, which also stands for an action code outside the six (log 14). -/
structure StationSetNoneFields where
  station : Byte
  action : Byte
  flags : Option Byte
  deriving DecidableEq, Repr

structure SetParamFields where
  number : Byte
  value : Word
  deriving DecidableEq, Repr

/-- The commands. A request names the link its frame arrived on; the other rows are line events, resets and timer events. -/
inductive Instr where
  | load (link : Link) (body : Body LoadFields)
  | advance (link : Link) (body : Body AdvanceFields)
  | query (link : Link) (body : Body Unit)
  | endRun (link : Link) (body : Body Unit)
  | delivered (link : Link) (body : Body Half)
  | jam (link : Link) (body : Body JamFields)
  | clear (link : Link) (body : Body Unit)
  | endSession (link : Link) (body : Body Unit)
  | authNotice (link : Link) (body : Body AuthNoticeFields)
  | sessionQuery (link : Link) (body : Body Byte)
  | poll (link : Link) (body : Body Unit)
  | captureResult (link : Link) (body : Body CaptureResultFields)
  | acctCreate (link : Link) (body : Body AcctCreateFields)
  | acctUpdate (link : Link) (body : Body AcctUpdateFields)
  | acctRead (link : Link) (body : Body Word)
  | acctNext (link : Link) (body : Body Word)
  | acctDelete (link : Link) (body : Body Word)
  | priceWrite (link : Link) (body : Body PriceWriteFields)
  | priceRead (link : Link) (body : Body PriceReadFields)
  | priceSwap (link : Link) (body : Body Byte)
  | runAbort (link : Link) (body : Body Byte)
  | captureHead (link : Link) (body : Body Unit)
  | captureAbandon (link : Link) (body : Body CaptureAbandonFields)
  | referralFetch (link : Link) (body : Body Unit)
  | referralList (link : Link) (body : Body Unit)
  | referralReply (link : Link) (body : Body ReferralReplyFields)
  | logRead (link : Link) (body : Body Unit)
  | logRelease (link : Link) (body : Body Half)
  | logStatus (link : Link) (body : Body Unit)
  | meterRead (link : Link) (body : Body Byte)
  | linkStats (link : Link) (body : Body LinkStatsFields)
  | stationSetNone (link : Link) (body : Body StationSetNoneFields)
  | stationSetEnable (link : Link) (body : Body StationSetFields)
  | stationSetDisable (link : Link) (body : Body StationSetFields)
  | stationSetHold (link : Link) (body : Body StationSetFields)
  | stationSetRelease (link : Link) (body : Body StationSetFields)
  | stationSetOff (link : Link) (body : Body StationSetFields)
  | stationRead (link : Link) (body : Body Byte)
  | attnExchange (link : Link) (body : Body Word)
  | setParam (link : Link) (body : Body SetParamFields)
  | getParam (link : Link) (body : Body Byte)
  | identify (link : Link) (body : Body Unit)
  | teardown (link : Link) (body : Body Unit)
  | warmReset (link : Link) (body : Body Unit)
  | invalidRequestCode (link : Link) (code : Byte)
  | frameDiscarded (link : Link) (heard : List LineByte)
  | receiveGapTimeout (link : Link)
  | selectReleased
  | powerOn
  | resetPin
  | timebaseTick
  | runIdleTimerExpiry (station : Station)
  | jamTimerExpiry (station : Station)
  | lostTimerExpiry (station : Station)
  | silenceTimerExpiry (station : Station)
  | cardIdleTimerExpiry (station : Station)
  | referralTimeout (id : Nat)
  | captureStallTimingExpiry
  | responseClockedOut
  deriving DecidableEq, Repr

end Sys2Proof
end

