-- ==== Sys2Proof/WellFormed.lean ====
section
/-! DEFINITION. Which commands can occur: the operands of a row that the spec lets a frame or a line carry. Meanings are total and
give an effect to ill-formed commands too; `Instr.wf` says which commands a link can really bring. -/

namespace Sys2Proof

/-- Whether a byte is a request code of the part ("Request codes and body lengths"). -/
def isRequestCode (code : Byte) : Bool :=
  [0x01, 0x02, 0x03, 0x04, 0x05, 0x06, 0x07, 0x08, 0x20, 0x21, 0x22, 0x23].contains code ||
  [0x40, 0x41, 0x42, 0x43, 0x44, 0x48, 0x49, 0x4A, 0x50, 0x51, 0x52, 0x53, 0x54, 0x55].contains code ||
  [0x58, 0x59, 0x5A, 0x5B, 0x60, 0x61, 0x62, 0x68, 0x69, 0x6A, 0x6B, 0x6C, 0x6D].contains code

/-- The lengths of PRICE_WRITE's values, the three header bytes taken off: the port accepts bodies of 4 bytes, of 6 to 36 even,
and of 19 (section 9.4, PRICE_WRITE items). -/
def priceWriteLengthOk (n : Nat) : Bool :=
  n == 1 || n == 16 || (3 ≤ n && n ≤ 33 && n % 2 == 1)

/-- An ADVANCE body has zero, one or two overrides (section 9.4). -/
def advanceLengthOk (overrides : List Override) : Bool := overrides.length ≤ 2

/-- An action code of the row STATION_SET_NONE is NONE or none of the other five actions (log 14). -/
def stationSetNoneActionOk (action : Byte) : Bool := !([1, 2, 3, 4, 5].contains action)

/-- The M-link is clocked and has no stop bit, so no byte on it carries a framing fault (R150, R151). -/
def heardOk (link : Link) (heard : List LineByte) : Bool :=
  !heard.isEmpty && (link != .m || heard.all (fun b => !b.faulty))

/-- Whether the fields of a body satisfy a check; a body of a wrong length has none. -/
def Body.all {α : Type} (check : α → Bool) : Body α → Bool
  | .of fields => check fields
  | .wrongLength => true

/-- Whether a link, the timebase or the power can bring a command. A body of a wrong length is carried by some frame of every code. -/
def Instr.wf : Instr → Bool
  | .load _ _ => true
  | .advance _ body => body.all (fun f => advanceLengthOk f.overrides)
  | .query _ _ => true
  | .endRun _ _ => true
  | .delivered _ _ => true
  | .jam _ _ => true
  | .clear _ _ => true
  | .endSession _ _ => true
  | .authNotice _ _ => true
  | .sessionQuery _ _ => true
  | .poll _ _ => true
  | .captureResult _ _ => true
  | .acctCreate _ _ => true
  | .acctUpdate _ _ => true
  | .acctRead _ _ => true
  | .acctNext _ _ => true
  | .acctDelete _ _ => true
  | .priceWrite _ body => body.all (fun f => priceWriteLengthOk f.values.length)
  | .priceRead _ _ => true
  | .priceSwap _ _ => true
  | .runAbort _ _ => true
  | .captureHead _ _ => true
  | .captureAbandon _ _ => true
  | .referralFetch _ _ => true
  | .referralList _ _ => true
  | .referralReply _ _ => true
  | .logRead _ _ => true
  | .logRelease _ _ => true
  | .logStatus _ _ => true
  | .meterRead _ _ => true
  | .linkStats _ _ => true
  | .stationSetNone _ body => body.all (fun f => stationSetNoneActionOk f.action)
  | .stationSetEnable _ _ => true
  | .stationSetDisable _ _ => true
  | .stationSetHold _ _ => true
  | .stationSetRelease _ _ => true
  | .stationSetOff _ _ => true
  | .stationRead _ _ => true
  | .attnExchange _ _ => true
  | .setParam _ _ => true
  | .getParam _ _ => true
  | .identify _ _ => true
  | .teardown _ _ => true
  | .warmReset _ _ => true
  | .invalidRequestCode _ code => !isRequestCode code
  | .frameDiscarded link heard => heardOk link heard
  | .receiveGapTimeout _ => true
  | .selectReleased => true
  | .powerOn => true
  | .resetPin => true
  | .timebaseTick => true
  | .runIdleTimerExpiry _ => true
  | .jamTimerExpiry _ => true
  | .lostTimerExpiry _ => true
  | .silenceTimerExpiry _ => true
  | .cardIdleTimerExpiry _ => true
  | .referralTimeout id => 1 ≤ id && id ≤ 255
  | .captureStallTimingExpiry => true
  | .responseClockedOut => true

end Sys2Proof
end

