-- ==== Sys2Proof/Decode.lean ====
section
/-! DEFINITION. Frames and their bodies: the byte order and the check of a frame (R152, R179), the command a valid frame spells, and
the frame that spells a request. The opcode table gives its rows no bits, so `decodeTableWord` answers none (log 6). -/

namespace Sys2Proof

/-! ### Fields, most significant byte first (R179) -/

/-- A one-byte field. -/
def be1 (n : Nat) : List Byte := [BitVec.ofNat 8 n]

/-- A two-byte field. -/
def be2 (n : Nat) : List Byte := [BitVec.ofNat 8 (n / 256), BitVec.ofNat 8 n]

/-- A four-byte field. -/
def be4 (n : Nat) : List Byte :=
  [BitVec.ofNat 8 (n / 16777216), BitVec.ofNat 8 (n / 65536), BitVec.ofNat 8 (n / 256), BitVec.ofNat 8 n]

/-- A four-byte signed field, two's complement. -/
def be4s (i : Int) : List Byte := be4 (BitVec.ofInt 32 i).toNat

/-- A two-byte field as read. -/
def half (hi lo : Byte) : Half := hi ++ lo

/-- A four-byte field as read. -/
def word (b3 b2 b1 b0 : Byte) : Word := b3 ++ b2 ++ b1 ++ b0

/-! ### The check (R152) -/

/-- One bit of the CRC-16 with polynomial x^16 + x^12 + x^5 + 1. -/
def crcBit (crc : Half) : Half := if crc.msb then (crc <<< 1) ^^^ 0x1021 else crc <<< 1

/-- One byte of the check, fed in most significant bit first. -/
def crcByte (crc : Half) (b : Byte) : Half :=
  crcBit (crcBit (crcBit (crcBit (crcBit (crcBit (crcBit (crcBit (crc ^^^ (b.setWidth 16 <<< 8)))))))))

/-- The check over the address, the body length, the code and the body, starting at 0xFFFF. -/
def crc16 (bytes : List Byte) : Half := bytes.foldl crcByte 0xFFFF

/-! ### Frames (R152, R154) -/

/-- The start byte of every frame. -/
def startByte : Byte := 0xA5

/-- The address a request on a link must carry (R154). -/
def Link.address : Link → Byte
  | .c n => BitVec.ofNat 8 n.val
  | .p => 0x20
  | .m => 0x30

/-- A frame: start, address, body length, code, body, check high byte first. -/
def frameBytes (address code : Byte) (body : List Byte) : List Byte :=
  let checked := address :: BitVec.ofNat 8 body.length :: code :: body
  startByte :: checked ++ be2 (crc16 checked).toNat

/-! ### Bodies of requests -/

def bodyUnit : List Byte → Body Unit
  | [] => .of ()
  | _ => .wrongLength

def bodyByte : List Byte → Body Byte
  | [b] => .of b
  | _ => .wrongLength

def bodyHalf : List Byte → Body Half
  | [h, l] => .of (half h l)
  | _ => .wrongLength

def bodyWord : List Byte → Body Word
  | [a, b, c, d] => .of (word a b c d)
  | _ => .wrongLength

def bodyLoad : List Byte → Body LoadFields
  | [a, b, c, d, media, colour, sides] => .of ⟨word a b c d, media, colour, sides⟩
  | _ => .wrongLength

def bodyAdvance : List Byte → Body AdvanceFields
  | [h, l, count] => .of ⟨half h l, count, []⟩
  | [h, l, count, t, v] => .of ⟨half h l, count, [⟨t, v⟩]⟩
  | [h, l, count, t, v, t', v'] => .of ⟨half h l, count, [⟨t, v⟩, ⟨t', v'⟩]⟩
  | _ => .wrongLength

def bodyJam : List Byte → Body JamFields
  | [h, l, r] => .of ⟨half h l, r⟩
  | _ => .wrongLength

def bodyAuthNotice : List Byte → Body AuthNoticeFields
  | [st, r3, r2, r1, r0, a3, a2, a1, a0, cls] => .of ⟨st, word r3 r2 r1 r0, word a3 a2 a1 a0, cls⟩
  | _ => .wrongLength

def bodyCaptureResult : List Byte → Body CaptureResultFields
  | [r3, r2, r1, r0, outcome] => .of ⟨word r3 r2 r1 r0, outcome⟩
  | _ => .wrongLength

def bodyAcctCreate : List Byte → Body AcctCreateFields
  | [n3, n2, n1, n0, kind, tier, l3, l2, l1, l0, b3, b2, b1, b0, maxRuns] =>
    .of ⟨word n3 n2 n1 n0, kind, tier, word l3 l2 l1 l0, word b3 b2 b1 b0, maxRuns⟩
  | _ => .wrongLength

def bodyAcctUpdate : List Byte → Body AcctUpdateFields
  | [n3, n2, n1, n0, mask, tier, l3, l2, l1, l0, maxRuns, state, d3, d2, d1, d0] =>
    .of ⟨word n3 n2 n1 n0, mask, tier, word l3 l2 l1 l0, maxRuns, state, word d3 d2 d1 d0⟩
  | _ => .wrongLength

def bodyPriceWrite : List Byte → Body PriceWriteFields
  | bank :: tier :: item :: values =>
    if priceWriteLengthOk values.length then .of ⟨bank, tier, item, values⟩ else .wrongLength
  | _ => .wrongLength

def bodyPriceRead : List Byte → Body PriceReadFields
  | [bank, tier] => .of ⟨bank, tier⟩
  | _ => .wrongLength

def bodyCaptureAbandon : List Byte → Body CaptureAbandonFields
  | [st, r3, r2, r1, r0] => .of ⟨st, word r3 r2 r1 r0⟩
  | _ => .wrongLength

def bodyReferralReply : List Byte → Body ReferralReplyFields
  | [id, decision, a3, a2, a1, a0, tier] => .of ⟨id, decision, word a3 a2 a1 a0, tier⟩
  | _ => .wrongLength

def bodyLinkStats : List Byte → Body LinkStatsFields
  | [link, clear] => .of ⟨link, clear⟩
  | _ => .wrongLength

def bodySetParam : List Byte → Body SetParamFields
  | [number, v3, v2, v1, v0] => .of ⟨number, word v3 v2 v1 v0⟩
  | _ => .wrongLength

/-- A STATION_SET body: its action byte picks the row (R161). -/
def stationSetOf (link : Link) (station action : Byte) (flags : Option Byte) : Instr :=
  if action = 1 then .stationSetEnable link (.of ⟨station, flags⟩)
  else if action = 2 then .stationSetDisable link (.of ⟨station, flags⟩)
  else if action = 3 then .stationSetHold link (.of ⟨station, flags⟩)
  else if action = 4 then .stationSetRelease link (.of ⟨station, flags⟩)
  else if action = 5 then .stationSetOff link (.of ⟨station, flags⟩)
  else .stationSetNone link (.of ⟨station, action, flags⟩)

def decodeStationSet (link : Link) : List Byte → Instr
  | [station, action] => stationSetOf link station action none
  | [station, action, flags] => stationSetOf link station action (some flags)
  | _ => .stationSetNone link .wrongLength

/-- The command a valid frame spells: its code and body, on the link it arrived on (R156; "Request codes and body lengths"). -/
def decodeRequest (link : Link) (code : Byte) (body : List Byte) : Instr :=
  match code.toNat with
  | 0x01 => .load link (bodyLoad body)
  | 0x02 => .advance link (bodyAdvance body)
  | 0x03 => .query link (bodyUnit body)
  | 0x04 => .endRun link (bodyUnit body)
  | 0x05 => .delivered link (bodyHalf body)
  | 0x06 => .jam link (bodyJam body)
  | 0x07 => .clear link (bodyUnit body)
  | 0x08 => .endSession link (bodyUnit body)
  | 0x20 => .authNotice link (bodyAuthNotice body)
  | 0x21 => .sessionQuery link (bodyByte body)
  | 0x22 => .poll link (bodyUnit body)
  | 0x23 => .captureResult link (bodyCaptureResult body)
  | 0x40 => .acctCreate link (bodyAcctCreate body)
  | 0x41 => .acctUpdate link (bodyAcctUpdate body)
  | 0x42 => .acctRead link (bodyWord body)
  | 0x43 => .acctNext link (bodyWord body)
  | 0x44 => .acctDelete link (bodyWord body)
  | 0x48 => .priceWrite link (bodyPriceWrite body)
  | 0x49 => .priceRead link (bodyPriceRead body)
  | 0x4A => .priceSwap link (bodyByte body)
  | 0x50 => .runAbort link (bodyByte body)
  | 0x51 => .captureHead link (bodyUnit body)
  | 0x52 => .captureAbandon link (bodyCaptureAbandon body)
  | 0x53 => .referralFetch link (bodyUnit body)
  | 0x54 => .referralList link (bodyUnit body)
  | 0x55 => .referralReply link (bodyReferralReply body)
  | 0x58 => .logRead link (bodyUnit body)
  | 0x59 => .logRelease link (bodyHalf body)
  | 0x5A => .logStatus link (bodyUnit body)
  | 0x5B => .meterRead link (bodyByte body)
  | 0x60 => .linkStats link (bodyLinkStats body)
  | 0x61 => decodeStationSet link body
  | 0x62 => .stationRead link (bodyByte body)
  | 0x68 => .attnExchange link (bodyWord body)
  | 0x69 => .setParam link (bodySetParam body)
  | 0x6A => .getParam link (bodyByte body)
  | 0x6B => .identify link (bodyUnit body)
  | 0x6C => .teardown link (bodyUnit body)
  | 0x6D => .warmReset link (bodyUnit body)
  | _ => .invalidRequestCode link code

/-! ### The frame that spells a request -/

/-- What a request's frame carries besides its check: link, code and body. -/
structure RequestFrame where
  link : Link
  code : Byte
  body : List Byte
  deriving DecidableEq, Repr

/-- The bytes of a request on its link. -/
def RequestFrame.bytes (f : RequestFrame) : List Byte := frameBytes f.link.address f.code f.body

def encodeOverride (o : Override) : List Byte := [o.tag, o.value]

/-- A body whose fields are written out; a body of a wrong length has no one spelling. -/
def spell {α : Type} (link : Link) (code : Byte) (write : α → List Byte) : Body α → Option RequestFrame
  | .of fields => some ⟨link, code, write fields⟩
  | .wrongLength => none

def writeStationSet (action : Byte) (f : StationSetFields) : List Byte := [f.station, action] ++ f.flags.toList

/-- The frame that spells a command; none for a body of a wrong length and for the rows that are no requests. -/
def encodeRequest : Instr → Option RequestFrame
  | .load l b => spell l 0x01 (fun f => be4 f.account.toNat ++ [f.media, f.colour, f.sides]) b
  | .advance l b => spell l 0x02 (fun f => be2 f.firstSeq.toNat ++ [f.count] ++ f.overrides.flatMap encodeOverride) b
  | .query l b => spell l 0x03 (fun _ => []) b
  | .endRun l b => spell l 0x04 (fun _ => []) b
  | .delivered l b => spell l 0x05 (fun seq => be2 seq.toNat) b
  | .jam l b => spell l 0x06 (fun f => be2 f.lastDelivered.toNat ++ [f.recovered]) b
  | .clear l b => spell l 0x07 (fun _ => []) b
  | .endSession l b => spell l 0x08 (fun _ => []) b
  | .authNotice l b =>
    spell l 0x20 (fun f => [f.station] ++ be4 f.reference.toNat ++ be4 f.amount.toNat ++ [f.cardClass]) b
  | .sessionQuery l b => spell l 0x21 (fun st => [st]) b
  | .poll l b => spell l 0x22 (fun _ => []) b
  | .captureResult l b => spell l 0x23 (fun f => be4 f.reference.toNat ++ [f.outcome]) b
  | .acctCreate l b =>
    spell l 0x40 (fun f => be4 f.number.toNat ++ [f.kind, f.tier] ++ be4 f.limit.toNat ++ be4 f.balance.toNat ++ [f.maxRuns]) b
  | .acctUpdate l b =>
    spell l 0x41 (fun f =>
      be4 f.number.toNat ++ [f.mask, f.tier] ++ be4 f.limit.toNat ++ [f.maxRuns, f.state] ++ be4 f.delta.toNat) b
  | .acctRead l b => spell l 0x42 (fun n => be4 n.toNat) b
  | .acctNext l b => spell l 0x43 (fun n => be4 n.toNat) b
  | .acctDelete l b => spell l 0x44 (fun n => be4 n.toNat) b
  | .priceWrite l b => spell l 0x48 (fun f => [f.bank, f.tier, f.item] ++ f.values) b
  | .priceRead l b => spell l 0x49 (fun f => [f.bank, f.tier]) b
  | .priceSwap l b => spell l 0x4A (fun bank => [bank]) b
  | .runAbort l b => spell l 0x50 (fun st => [st]) b
  | .captureHead l b => spell l 0x51 (fun _ => []) b
  | .captureAbandon l b => spell l 0x52 (fun f => [f.station] ++ be4 f.reference.toNat) b
  | .referralFetch l b => spell l 0x53 (fun _ => []) b
  | .referralList l b => spell l 0x54 (fun _ => []) b
  | .referralReply l b => spell l 0x55 (fun f => [f.id, f.decision] ++ be4 f.amount.toNat ++ [f.tier]) b
  | .logRead l b => spell l 0x58 (fun _ => []) b
  | .logRelease l b => spell l 0x59 (fun seq => be2 seq.toNat) b
  | .logStatus l b => spell l 0x5A (fun _ => []) b
  | .meterRead l b => spell l 0x5B (fun st => [st]) b
  | .linkStats l b => spell l 0x60 (fun f => [f.link, f.clear]) b
  | .stationSetNone l b => spell l 0x61 (fun f => [f.station, f.action] ++ f.flags.toList) b
  | .stationSetEnable l b => spell l 0x61 (writeStationSet 1) b
  | .stationSetDisable l b => spell l 0x61 (writeStationSet 2) b
  | .stationSetHold l b => spell l 0x61 (writeStationSet 3) b
  | .stationSetRelease l b => spell l 0x61 (writeStationSet 4) b
  | .stationSetOff l b => spell l 0x61 (writeStationSet 5) b
  | .stationRead l b => spell l 0x62 (fun st => [st]) b
  | .attnExchange l b => spell l 0x68 (fun mask => be4 mask.toNat) b
  | .setParam l b => spell l 0x69 (fun f => [f.number] ++ be4 f.value.toNat) b
  | .getParam l b => spell l 0x6A (fun n => [n]) b
  | .identify l b => spell l 0x6B (fun _ => []) b
  | .teardown l b => spell l 0x6C (fun _ => []) b
  | .warmReset l b => spell l 0x6D (fun _ => []) b
  | .invalidRequestCode l code => some ⟨l, code, []⟩
  | .frameDiscarded _ _ => none
  | .receiveGapTimeout _ => none
  | .selectReleased => none
  | .powerOn => none
  | .resetPin => none
  | .timebaseTick => none
  | .runIdleTimerExpiry _ => none
  | .jamTimerExpiry _ => none
  | .lostTimerExpiry _ => none
  | .silenceTimerExpiry _ => none
  | .cardIdleTimerExpiry _ => none
  | .referralTimeout _ => none
  | .captureStallTimingExpiry => none
  | .responseClockedOut => none

/-- The command that a word spells by the opcode table's bits: none, since no row of the table gives bits (log 6). -/
def decodeTableWord (_nbits _w : Nat) : Option Instr := none

end Sys2Proof
end

