-- ==== Sys2Proof/Machine/State.lean ====
section
/-! DEFINITION. Everything the spec gives the part to hold, as plain data, and the state right after power-on. A field that reads "0 or
absent" in some state of its block (R42, R93) is there only while it has a meaning: an IDLE run has no job, a session that is NONE
is absent. Amounts and counts are whole numbers; words that software masks are bit vectors. -/

namespace Sys2Proof.Machine

/-! ### Small sets of names -/

inductive ColourMode where | mono | colour
  deriving DecidableEq, Repr

inductive Sides where | simplex | duplex
  deriving DecidableEq, Repr

inductive BankName where | a | b
  deriving DecidableEq, Repr

/-- Which of the three credit records an account number stands for (R1). -/
inductive SlotKind where | house | card | mirror
  deriving DecidableEq, Repr

inductive AcctKind where | prepaid | postpaid
  deriving DecidableEq, Repr

inductive AcctState where | opened | frozen
  deriving DecidableEq, Repr

inductive MirrorState where | pending | active
  deriving DecidableEq, Repr

/-- The states of a run that is not IDLE (R43). -/
inductive RunState where | referral | active | starved | jammed | finishing
  deriving DecidableEq, Repr

/-- Why a burst stopped (R56, R58). -/
inductive StopReason where | none | runLimit | pathFull | noCredit | frozen
  deriving DecidableEq, Repr

inductive LastOutcome where | none | granted | denied | timedOut | cancelled
  deriving DecidableEq, Repr

/-- Why a run closed (R68). -/
inductive CloseReason where | normal | idle | jamTimeout | linkLost | console | teardown
  deriving DecidableEq, Repr

/-- The states of a card session that is not NONE (R94). -/
inductive SessionState where | opened | closing | capturing
  deriving DecidableEq, Repr

inductive AuthOutcome where | pending | done | failed | abandoned
  deriving DecidableEq, Repr

inductive OrderKind where | capture | release
  deriving DecidableEq, Repr

inductive ReferralKind where | opening | topup
  deriving DecidableEq, Repr

inductive ReferralState where | waiting | fetched
  deriving DecidableEq, Repr

inductive StationState where | off | enabled | draining | held
  deriving DecidableEq, Repr

/-- The state a HELD station goes back to (R159). -/
inductive PriorState where | enabled | draining
  deriving DecidableEq, Repr

inductive Presence where | present | silent
  deriving DecidableEq, Repr

inductive ResetCause where | powerOn | resetPin | warm
  deriving DecidableEq, Repr

/-- The response codes (section 9.4). -/
inductive RespCode where
  | ok | pending | none | empty | endOfTable
  | badFormat | access | badValue | stationOff | held | stationHeld | disabled | busy | noPrices | logFull
  | noSession | sessionOpen | notFound | frozen | accountBusy | noSlot | noRun | referral | jammed | finishing
  | sequence | duplicate | tableFull | limit | conflict | balance | bankBusy | sameBank | stationBusy | authLimit
  | sessionBusy | tooLate | state | routed | notLocal | insufficient
  deriving DecidableEq, Repr

/-- A response: its code and its body (R154). -/
structure Response where
  code : RespCode
  body : List Byte
  deriving DecidableEq, Repr

/-! ### Account table (Chapter 1) -/

/-- The credit fields all three kinds of record carry. -/
structure Credit where
  balance : Int
  held : Nat
  /-- Stations whose runs draw on the record, in LOAD order (R5). -/
  runList : List Station
  deriving DecidableEq, Repr

/-- A house account record (R3). -/
structure HouseRecord where
  number : Word
  kind : AcctKind
  tier : Tier
  state : AcctState
  limit : Nat
  maxRuns : Nat
  credit : Credit
  deriving DecidableEq, Repr

/-- A mirror slot in use (R7). -/
structure Mirror where
  number : Word
  state : MirrorState
  tier : Tier
  credit : Credit
  deriving DecidableEq, Repr

/-! ### Price banks (Chapter 2) -/

/-- A volume break; threshold 0 marks it unused (R23). -/
structure Break where
  threshold : Nat
  discount : Nat
  deriving DecidableEq, Repr

structure TierPrices where
  base : Vector Nat 16
  back : Nat
  breaks : Vector Break 4
  deriving DecidableEq, Repr

structure Bank where
  tiers : Vector TierPrices 4
  generation : Nat
  users : Nat
  deriving DecidableEq, Repr

/-! ### Run controller and sheet path (Chapters 3 and 4) -/

structure Template where
  media : Fin 8
  colour : ColourMode
  sides : Sides
  deriving DecidableEq, Repr

/-- The last fresh burst and the H and A its answer reported (R58). -/
structure Burst where
  firstSeq : Nat
  granted : Nat
  stop : StopReason
  hold : Nat
  charge : Nat
  deriving DecidableEq, Repr

/-- What a run context holds while its run is not IDLE (R42). -/
structure Job where
  state : RunState
  account : Word
  slot : SlotKind
  tier : Tier
  bank : BankName
  generation : Nat
  jamAllowance : Nat
  template : Template
  lastBurst : Option Burst
  /-- The net charge A, in fine units (R37). -/
  charge : Nat
  /-- S_int, the interim debits, in units (R37). -/
  settled : Nat
  /-- The hold H, in units (R37). -/
  hold : Nat
  granted : Nat
  delivered : Nat
  credited : Nat
  disputed : Nat
  netMono : Nat
  netColour : Nat
  jams : Nat
  sinceInterim : Nat
  /-- The run idle timer: seconds left, or stopped (R64). -/
  idleTimer : Option Nat
  deriving DecidableEq, Repr

/-- A run context: the job of a run that is not IDLE, and the last outcome, kept in IDLE (R42, R44). -/
structure Run where
  job : Option Job
  lastOutcome : LastOutcome
  deriving DecidableEq, Repr

/-- An in-path entry (R71). -/
structure PathEntry where
  seq : Nat
  kind : SheetKind
  sides : Sides
  price : Nat
  deriving DecidableEq, Repr

/-! ### Card sessions (Chapter 5) -/

/-- One authorization of a session (R93). -/
structure Auth where
  reference : Word
  amount : Nat
  cardClass : Byte
  capture : Option Nat
  outcome : AuthOutcome
  deriving DecidableEq, Repr

/-- A card session that is not NONE (R93). -/
structure Session where
  state : SessionState
  tier : Tier
  auths : List Auth
  spent : Nat
  /-- The card idle timer: seconds left, or stopped (R100). -/
  idleTimer : Option Nat
  deriving DecidableEq, Repr

/-- A capture order (R106). -/
structure Order where
  station : Station
  reference : Word
  kind : OrderKind
  amount : Nat
  deriving DecidableEq, Repr

/-! ### Referrals (Chapter 6) -/

/-- A referral in the queue (R119). -/
structure Referral where
  id : Nat
  kind : ReferralKind
  station : Station
  account : Word
  requested : Nat
  state : ReferralState
  /-- Seconds left of its timeout (R128). -/
  timeout : Nat
  deriving DecidableEq, Repr

/-! ### Settlement log and meters (Chapter 7) -/

structure RunCloseEntry where
  station : Station
  account : Word
  slot : SlotKind
  tier : Tier
  generation : Nat
  reason : CloseReason
  delivered : Nat
  credited : Nat
  disputed : Nat
  jams : Nat
  charge : Nat
  settled : Nat
  final : Nat
  deriving DecidableEq, Repr

structure RunInterimEntry where
  station : Station
  account : Word
  delivered : Nat
  amount : Nat
  settled : Nat
  generation : Nat
  deriving DecidableEq, Repr

structure SessionEntry where
  station : Station
  tier : Tier
  spent : Nat
  auths : List Auth
  deriving DecidableEq, Repr

/-- The contents of a settlement record (R134). -/
inductive LogEntry where
  | runClose (e : RunCloseEntry)
  | runInterim (e : RunInterimEntry)
  | session (e : SessionEntry)
  | adjust (account : Word) (delta : Int) (balance : Int)
  | swap (bank : BankName) (generation : Nat)
  deriving DecidableEq, Repr

/-- A settlement record: its log sequence number and contents (R133, R134). -/
structure LogRecord where
  seq : Nat
  entry : LogEntry
  deriving DecidableEq, Repr

/-- The twenty meters of a station (R145). -/
structure Meters where
  kinds : Vector Nat 16
  duplex : Nat
  jam : Nat
  credited : Nat
  disputed : Nat
  deriving DecidableEq, Repr

/-! ### Links and stations (Chapter 8) -/

structure ModeFlags where
  accountRuns : Bool
  cardRuns : Bool
  remoteRuns : Bool
  deriving DecidableEq, Repr

/-- A station record (R159). -/
structure StationRecord where
  state : StationState
  prior : Option PriorState
  flags : ModeFlags
  presence : Presence
  /-- The silence timer: seconds left, or stopped (R164). -/
  silence : Option Nat
  deriving DecidableEq, Repr

/-- A receiver (R153); in RECEIVE it holds the bytes collected after the start byte. -/
inductive Receiver where
  | hunt
  | receive (collected : List Byte)
  | skip
  deriving DecidableEq, Repr

/-- What each of the ten ports holds: its receiver, its counters and its discard-armed flag (R153, R157). -/
structure Port where
  receiver : Receiver
  accepted : Nat
  refused : Nat
  discarded : Nat
  armed : Bool
  deriving DecidableEq, Repr

/-- The link and the code of the most recent ACCESS refusal (R157). -/
structure Violation where
  link : Link
  code : Byte
  deriving DecidableEq, Repr

/-- The ports, the responses they hold and the last-violation record. -/
structure Io where
  cPorts : Vector Port 8
  pPort : Port
  mPort : Port
  /-- Responses formed on each C-link and not yet sent, in order (R150). -/
  cOut : Vector (List Response) 8
  /-- Responses formed on the P-link and not yet sent, in order (R150). -/
  pOut : List Response
  /-- The M-link's waiting response (R151). -/
  mWaiting : Option Response
  /-- Bytes of the waiting response clocked out since select was last released (R151). -/
  mSent : Nat
  lastViolation : Option Violation
  deriving DecidableEq, Repr

/-! ### Parameters (Chapter 9) -/

/-- The parameter table (R172). -/
structure Params where
  holdStep : Nat
  interimInterval : Nat
  jamAllowance : Nat
  jamTimer : Nat
  runIdle : Nat
  cardIdle : Nat
  referralTimeout : Nat
  referralOpen : Nat
  silence : Nat
  captureStall : Nat
  cardMap : Vector Tier 4
  routeMask : Word
  routeValue : Word
  attnMask : Word
  srqMask : Word
  deriving DecidableEq, Repr

/-- The state of the part, and the queue of the commands waiting for it. -/
structure State where
  house : List HouseRecord
  cards : Vector (Option Credit) 8
  mirrors : List Mirror
  bankA : Bank
  bankB : Bank
  active : Option BankName
  genCounter : Nat
  runs : Vector Run 8
  paths : Vector (List PathEntry) 8
  jamTimers : Vector (Option Nat) 8
  lostTimers : Vector (Option Nat) 8
  sessions : Vector (Option Session) 8
  captureQueue : List Order
  closingWait : List Station
  stallTimer : Option Nat
  headAge : Nat
  referrals : List Referral
  referralNextId : Nat
  log : List LogRecord
  logNext : Nat
  reserved : Nat
  meters : Vector Meters 8
  stations : Vector StationRecord 8
  io : Io
  latched : Word
  params : Params
  resetCause : ResetCause
  uptime : Nat
  pending : List Instr
  deriving DecidableEq, Repr

/-- Reasons a command stops the part: there are none. The spec names no condition that stops the part, answers every valid frame
(R153), and calls no behaviour undefined, so no command raises a fault. -/
inductive Fault where
  deriving DecidableEq, Repr

/-- Reasons the model gives no meaning to a command. -/
inductive Refusal where
  /-- Raised by an arm of `exec` whose row has no meaning yet; safe. No arm raises it: every row has its meaning. -/
  | notModelled (mnemonic : String)
  deriving DecidableEq, Repr

/-! ### Reset values -/

/-- A run context in IDLE (R44, R70). -/
def Run.idle (outcome : LastOutcome) : Run := ⟨none, outcome⟩

def Break.unused : Break := ⟨0, 0⟩

def TierPrices.zero : TierPrices := ⟨Vector.replicate 16 0, 0, Vector.replicate 4 Break.unused⟩

/-- A bank after power-on (R41). -/
def Bank.zero : Bank := ⟨Vector.replicate 4 TierPrices.zero, 0, 0⟩

/-- The meters after power-on (R149). -/
def Meters.zero : Meters := ⟨Vector.replicate 16 0, 0, 0, 0, 0⟩

/-- A station record after power-on (R167). -/
def StationRecord.reset : StationRecord := ⟨.off, none, ⟨true, true, true⟩, .present, none⟩

/-- A port after power-on (R167). -/
def Port.reset : Port := ⟨.hunt, 0, 0, 0, true⟩

/-- The links after power-on (R167). -/
def Io.reset : Io :=
  { cPorts := Vector.replicate 8 Port.reset
    pPort := Port.reset
    mPort := Port.reset
    cOut := Vector.replicate 8 []
    pOut := []
    mWaiting := none
    mSent := 0
    lastViolation := none }

/-- The parameter defaults (R172). -/
def Params.defaults : Params :=
  { holdStep := Config.holdStepDefault
    interimInterval := Config.interimIntervalDefault
    jamAllowance := Config.jamAllowanceDefault
    jamTimer := Config.jamTimerDefault
    runIdle := Config.runIdleDefault
    cardIdle := Config.cardIdleDefault
    referralTimeout := Config.referralTimeoutDefault
    referralOpen := Config.referralOpenDefault
    silence := Config.silenceDefault
    captureStall := Config.captureStallDefault
    cardMap := #v[0, 1, 2, 3]
    routeMask := 0
    routeValue := 0
    attnMask := 0
    srqMask := 0 }

/-- The part right after power-on (R22, R41, R70, R92, R115, R131, R148, R149, R167, R178), with no command waiting. -/
def State.reset : State :=
  { house := []
    cards := Vector.replicate 8 none
    mirrors := []
    bankA := Bank.zero
    bankB := Bank.zero
    active := none
    genCounter := 0
    runs := Vector.replicate 8 (Run.idle .none)
    paths := Vector.replicate 8 []
    jamTimers := Vector.replicate 8 none
    lostTimers := Vector.replicate 8 none
    sessions := Vector.replicate 8 none
    captureQueue := []
    closingWait := []
    stallTimer := none
    headAge := 0
    referrals := []
    referralNextId := 1
    log := []
    logNext := 1
    reserved := 0
    meters := Vector.replicate 8 Meters.zero
    stations := Vector.replicate 8 StationRecord.reset
    io := Io.reset
    latched := 0
    params := Params.defaults
    resetCause := .powerOn
    uptime := 0
    pending := [] }

end Sys2Proof.Machine
end

