-- ==== Sys2Proof/Machine/Flags.lean ====
section
/-! DEFINITION. The attention unit (Chapter 9): latched events, live conditions, and the three output lines that follow them. -/

namespace Sys2Proof.Machine

/-- The latched events (R168). -/
inductive Event where
  | stationSilent | stationBack | jam | jamTimeout | referralWaiting | captureFailed | captureStall
  | accessViolation | runClosed | sessionLogged | admissionRefused | discards
  deriving DecidableEq, Repr

/-- The bit number of an event (R168). -/
def Event.bit : Event → Nat
  | .stationSilent => 0
  | .stationBack => 1
  | .jam => 2
  | .jamTimeout => 3
  | .referralWaiting => 4
  | .captureFailed => 5
  | .captureStall => 6
  | .accessViolation => 7
  | .runClosed => 8
  | .sessionLogged => 9
  | .admissionRefused => 10
  | .discards => 11

/-- The event's bit as a 32-bit set. -/
def Event.mask (e : Event) : Word := 1#32 <<< e.bit

/-- Latch an event; one that is set already stays set (R168). -/
def State.latch (s : State) (e : Event) : State := { s with latched := s.latched ||| e.mask }

/-- Whether an event is latched. -/
def State.isLatched (s : State) (e : Event) : Bool := s.latched.getLsbD e.bit

/-- Latch an event where a condition holds. -/
def State.latchIf (s : State) (cond : Bool) (e : Event) : State :=
  { s with latched := if cond then s.latched ||| e.mask else s.latched }

/-- The live conditions (R144, R169). -/
inductive Condition where
  | logNonempty | logQ1 | logQ2 | logQ3 | referralPending | captureQueueNonempty
  deriving DecidableEq, Repr

/-- The bit number of a live condition (R169). -/
def Condition.bit : Condition → Nat
  | .logNonempty => 12
  | .logQ1 => 13
  | .logQ2 => 14
  | .logQ3 => 15
  | .referralPending => 16
  | .captureQueueNonempty => 17

/-- Whether a live condition is present (R144, R169). -/
def State.isLive (s : State) : Condition → Bool
  | .logNonempty => 1 ≤ s.log.length
  | .logQ1 => 64 ≤ s.log.length
  | .logQ2 => 128 ≤ s.log.length
  | .logQ3 => 192 ≤ s.log.length
  | .referralPending => s.referrals.any (fun r => r.state == .waiting)
  | .captureQueueNonempty => !s.captureQueue.isEmpty

/-- A condition's bit where it is present. -/
def State.liveBit (s : State) (c : Condition) : Word := if s.isLive c then 1#32 <<< c.bit else 0

/-- The live set as software sees it (R169). -/
def State.liveSet (s : State) : Word :=
  s.liveBit .logNonempty ||| s.liveBit .logQ1 ||| s.liveBit .logQ2 ||| s.liveBit .logQ3 |||
    s.liveBit .referralPending ||| s.liveBit .captureQueueNonempty

/-- Whether a line with this mask is asserted, that is low (R171). -/
def State.lineAsserted (s : State) (mask : Word) : Bool := (s.latched ||| s.liveSet) &&& mask != 0

/-- ATTN is asserted (R171). -/
def State.attn (s : State) : Bool := s.lineAsserted s.params.attnMask

/-- SRQ is asserted (R171). -/
def State.srq (s : State) : Bool := s.lineAsserted s.params.srqMask

/-- READY is high: a response waits on the M-link (R151). -/
def State.ready (s : State) : Bool := s.io.mWaiting.isSome

end Sys2Proof.Machine
end

