-- ==== Sys2Proof/Machine/Ops.lean ====
section
/-! DEFINITION. The shared operations of the blocks: credit, the log, meters, referrals, timers, the close and the other ways a run
becomes IDLE, interim settlement, deliveries, and the capture queue. Each changes the fields it names and no other. -/

namespace Sys2Proof.Machine

/-! ### Account numbers and credit records (Chapter 1) -/

/-- The first card slot number. -/
def cardBase : Nat := 0xFFFFFFF0

/-- The card slot number of a station (R6). -/
def cardNumber (st : Station) : Word := BitVec.ofNat 32 (cardBase + st.val)

/-- The station a card slot number belongs to (R1). -/
def cardStation (n : Word) : Station := ⟨n.toNat % 8, Nat.mod_lt _ (by decide)⟩

/-- A number from 1 to 0xFFFFFFEF: a house or remote number (R1). -/
def isOrdinary (n : Word) : Bool := 1 ≤ n.toNat && n.toNat < cardBase

/-- A card slot number (R1). -/
def isCardNumber (n : Word) : Bool := cardBase ≤ n.toNat && n.toNat < cardBase + 8

/-- A number that names nothing on the M-link: 0, or 0xFFFFFFF8 and above (R1). -/
def isNoNumber (n : Word) : Bool := n.toNat == 0 || cardBase + 8 ≤ n.toNat

/-- Whether a route makes a number remote (R116). -/
def routeMatches (mask value n : Word) : Bool := isOrdinary n && mask != 0 && n &&& mask == value

/-- Whether a number is remote now (R116). -/
def State.isRemote (s : State) (n : Word) : Bool := routeMatches s.params.routeMask s.params.routeValue n

/-- The house record with a number. -/
def State.houseRecord (s : State) (n : Word) : Option HouseRecord := s.house.find? (fun r => r.number == n)

/-- The mirror slot in use that holds a number. -/
def State.mirrorOf (s : State) (n : Word) : Option Mirror := s.mirrors.find? (fun m => m.number == n)

/-- The credit fields of the record a run or a request refers to. -/
def State.creditOf (s : State) (slot : SlotKind) (n : Word) : Option Credit :=
  match slot with
  | .house => (s.houseRecord n).map (·.credit)
  | .card => s.cards[cardStation n]
  | .mirror => (s.mirrorOf n).map (·.credit)

/-- The credit limit of a record; 0 for card and mirror slots (R6, R7). -/
def State.limitOf (s : State) (slot : SlotKind) (n : Word) : Nat :=
  match slot with
  | .house => ((s.houseRecord n).map (·.limit)).getD 0
  | .card => 0
  | .mirror => 0

/-- Available credit: balance plus credit limit minus held (R4); 0 where there is no record (log 13). -/
def State.available (s : State) (slot : SlotKind) (n : Word) : Int :=
  match s.creditOf slot n with
  | none => 0
  | some c => c.balance + s.limitOf slot n - c.held

/-- Whether a record is a FROZEN house account (R8). -/
def State.isFrozen (s : State) (slot : SlotKind) (n : Word) : Bool :=
  match slot with
  | .house => (s.houseRecord n).any (fun r => r.state == .frozen)
  | .card => false
  | .mirror => false

/-- Change the credit fields of one record. -/
def State.mapCredit (s : State) (slot : SlotKind) (n : Word) (f : Credit → Credit) : State :=
  { s with
    house := if slot = .house then
        s.house.map (fun r => if r.number = n then { r with credit := f r.credit } else r)
      else s.house
    cards := if slot = .card then s.cards.set (cardStation n) (s.cards[cardStation n].map f) else s.cards
    mirrors := if slot = .mirror then
        s.mirrors.map (fun m => if m.number = n then { m with credit := f m.credit } else m)
      else s.mirrors }

/-- Free a mirror slot whose run list is empty; its remaining balance is discarded (R7). -/
def State.freeMirror (s : State) (slot : SlotKind) (n : Word) : State :=
  { s with
    mirrors := if slot = .mirror then
        s.mirrors.filter (fun m => !(m.number == n && m.credit.runList.isEmpty))
      else s.mirrors }

/-- Hold growth on a record (R10). -/
def Credit.grow (units : Nat) (c : Credit) : Credit := { c with held := c.held + units }

/-- An interim debit (R11). -/
def Credit.interimDebit (k : Nat) (c : Credit) : Credit := { c with balance := c.balance - k, held := c.held - k }

/-- A close debit with the run's hold, and the station leaving the run list (R5, R11). -/
def Credit.closeDebit (st : Station) (final hold : Nat) (c : Credit) : Credit :=
  { balance := c.balance - final, held := c.held - hold, runList := c.runList.filter (· != st) }

/-- A station leaving the run list (R5). -/
def Credit.leave (st : Station) (c : Credit) : Credit := { c with runList := c.runList.filter (· != st) }

/-- A station joining the run list at its end (R5). -/
def Credit.join (st : Station) (c : Credit) : Credit := { c with runList := c.runList ++ [st] }

/-- A credit of units, stopping at the greatest balance (R7, R98). -/
def Credit.raise (units : Nat) (c : Credit) : Credit :=
  { c with balance := min (c.balance + units) Config.balanceMax }

/-- `x` rounded up to a multiple of `step` (R10, R122). -/
def roundUp (x step : Nat) : Nat := (x + step - 1) / step * step

/-- What a request for hold growth is answered with (R10). -/
inductive Growth where
  | grown (units : Nat)
  | failed (why : StopReason)
  deriving DecidableEq, Repr

/-- The account table's decision on a shortfall of `x` units (R10). -/
def State.growthFor (s : State) (slot : SlotKind) (n : Word) (x : Nat) : Growth :=
  if s.isFrozen slot n then .failed .frozen
  else if (roundUp x s.params.holdStep : Int) ≤ s.available slot n then .grown (roundUp x s.params.holdStep)
  else if (x : Int) ≤ s.available slot n then .grown x
  else .failed .noCredit

/-! ### Settlement log (Chapter 7) -/

/-- The log's free space (R132). -/
def State.freeSpace (s : State) : Nat := Config.logCapacity - s.log.length

/-- The admission rule (R137). -/
def State.admits (s : State) : Bool := s.reserved < s.freeSpace

/-- A counter that wraps from 65,535 to 1 (R133, R31). -/
def step16 (n : Nat) : Nat := if Config.wrap16 ≤ n then 1 else n + 1

/-- Append a record at the tail with the counter's number, and step the counter (R132, R133). -/
def State.append (s : State) (entry : LogEntry) : State :=
  { s with log := s.log ++ [⟨s.logNext, entry⟩], logNext := step16 s.logNext }

/-- Take one reserved place (R136). -/
def State.reserve (s : State) : State := { s with reserved := s.reserved + 1 }

/-- Give one reserved place back (R136). -/
def State.unreserve (s : State) : State := { s with reserved := s.reserved - 1 }

/-! ### Meters (Chapter 7) -/

/-- A meter raised by `k`, modulo 1,000,000,000 (R145). -/
def meterAdd (m k : Nat) : Nat := (m + k) % Config.meterModulus

/-- The meters of one delivered sheet (R76, R146). -/
def Meters.deliver (m : Meters) (e : PathEntry) : Meters :=
  { m with
    kinds := m.kinds.set e.kind (meterAdd m.kinds[e.kind] 1)
    duplex := if e.sides = .duplex then meterAdd m.duplex 1 else m.duplex }

/-- The jam meter raised by one report (R83, R146). -/
def Meters.countJam (m : Meters) : Meters := { m with jam := meterAdd m.jam 1 }

/-- The credited and disputed meters raised at a close (R67, R146). -/
def Meters.close (m : Meters) (credited disputed : Nat) : Meters :=
  { m with credited := meterAdd m.credited credited, disputed := meterAdd m.disputed disputed }

/-! ### Price banks (Chapter 2) -/

def State.bank (s : State) : BankName → Bank
  | .a => s.bankA
  | .b => s.bankB

/-- Replace one bank. -/
def State.setBank (s : State) (name : BankName) (bank : Bank) : State :=
  { s with
    bankA := if name = .a then bank else s.bankA
    bankB := if name = .b then bank else s.bankB }

/-- A run captures a bank (R25). -/
def State.useBank (s : State) (name : BankName) : State :=
  s.setBank name { s.bank name with users := (s.bank name).users + 1 }

/-- A run gives its captured bank back (R25, R44). -/
def State.leaveBank (s : State) (name : BankName) : State :=
  s.setBank name { s.bank name with users := (s.bank name).users - 1 }

/-! ### Stations and their runs -/

/-- The job of a station's run; none in IDLE. -/
def State.job (s : State) (st : Station) : Option Job := s.runs[st].job

/-- Replace the job of a station's open run. -/
def State.setJob (s : State) (st : Station) (j : Job) : State :=
  { s with runs := s.runs.set st { s.runs[st] with job := some j } }

/-- Replace a station's run context. -/
def State.setRun (s : State) (st : Station) (r : Run) : State := { s with runs := s.runs.set st r }

/-- A run becomes IDLE, keeping its last outcome (R44). -/
def State.idleRun (s : State) (st : Station) : State :=
  { s with runs := s.runs.set st { s.runs[st] with job := none } }

/-- Replace a station's in-path list. -/
def State.setPath (s : State) (st : Station) (path : List PathEntry) : State := { s with paths := s.paths.set st path }

def State.setJamTimer (s : State) (st : Station) (t : Option Nat) : State :=
  { s with jamTimers := s.jamTimers.set st t }

def State.setLostTimer (s : State) (st : Station) (t : Option Nat) : State :=
  { s with lostTimers := s.lostTimers.set st t }

/-- The jam timer and the lost timer stop when the run becomes IDLE (R87, R89). -/
def State.stopRunTimers (s : State) (st : Station) : State :=
  { s with jamTimers := s.jamTimers.set st none, lostTimers := s.lostTimers.set st none }

def State.setStation (s : State) (st : Station) (r : StationRecord) : State :=
  { s with stations := s.stations.set st r }

def State.setSession (s : State) (st : Station) (x : Option Session) : State :=
  { s with sessions := s.sessions.set st x }

def State.setCard (s : State) (st : Station) (c : Option Credit) : State := { s with cards := s.cards.set st c }

def State.setMeters (s : State) (st : Station) (m : Meters) : State := { s with meters := s.meters.set st m }

/-- Whether a station's run is IDLE. -/
def State.runIdle (s : State) (st : Station) : Bool := s.runs[st].job.isNone

/-- Whether a station's card session is OPEN. -/
def State.sessionOpen (s : State) (st : Station) : Bool := s.sessions[st].any (fun x => x.state == .opened)

def State.isHeld (s : State) (st : Station) : Bool := s.stations[st].state == .held

def State.isSilent (s : State) (st : Station) : Bool := s.stations[st].presence == .silent

/-- A DRAINING station with its run IDLE and its session not OPEN becomes OFF, its silence timer stopped (R162). -/
def State.drainTest (s : State) (st : Station) : State :=
  { s with
    stations := if s.stations[st].state = .draining ∧ s.runIdle st = true ∧ s.sessionOpen st = false then
        s.stations.set st { s.stations[st] with state := .off, silence := none }
      else s.stations }

/-! ### Timers (R64, R87, R89, R100, R163) -/

/-- The run idle timer is frozen while HELD, SILENT or JAMMED (R64). -/
def State.runIdleFrozen (s : State) (st : Station) : Bool :=
  s.isHeld st || s.isSilent st || (s.job st).any (fun j => j.state == .jammed)

/-- The jam timer is frozen while HELD or SILENT (R87). -/
def State.jamFrozen (s : State) (st : Station) : Bool := s.isHeld st || s.isSilent st

/-- The lost timer is frozen while HELD (R89). -/
def State.lostFrozen (s : State) (st : Station) : Bool := s.isHeld st

/-- The card idle timer is frozen while HELD and while the run is open on the card slot (R100). -/
def State.cardIdleFrozen (s : State) (st : Station) : Bool :=
  s.isHeld st || (s.job st).any (fun j => j.slot == .card)

/-- A timer that has counted down to its end; `none` is stopped (log 3). -/
def timerDue (t : Option Nat) : Bool := t == some 0

/-- The seconds a timer has left, 0 where it is stopped (R99, R165). -/
def secondsLeft (t : Option Nat) : Nat := t.getD 0

/-- Restart the run idle timer at the parameter's value (R64). -/
def State.restartIdle (s : State) (st : Station) : State :=
  { s with
    runs := s.runs.set st
      { s.runs[st] with job := s.runs[st].job.map (fun j => { j with idleTimer := some s.params.runIdle }) } }

/-! ### Referral queue (Chapter 6) -/

/-- The id after an id: 1 to 255, then 1 (R120). -/
def idAfter (i : Nat) : Nat := if Config.referralIdMax ≤ i then 1 else i + 1

/-- Step past ids still held; `k` held ids need at most `k` steps (R120). -/
def freeId (held : List Nat) : Nat → Nat → Nat
  | 0, i => i
  | k + 1, i => if held.contains i then freeId held k (idAfter i) else i

/-- The id the next referral takes (R120). -/
def State.nextReferralId (s : State) : Nat :=
  freeId (s.referrals.map (·.id)) s.referrals.length s.referralNextId

/-- Queue a referral and latch REFERRAL_WAITING (R121, R122). -/
def State.createReferral (s : State) (kind : ReferralKind) (st : Station) (account : Word) (requested : Nat) : State :=
  { s with
    referrals := s.referrals ++
      [⟨s.nextReferralId, kind, st, account, requested, .waiting, s.params.referralTimeout⟩]
    referralNextId := idAfter s.nextReferralId
    latched := s.latched ||| Event.referralWaiting.mask }

/-- Remove a station's referral from the queue, whatever its state (R129). -/
def State.dropReferrals (s : State) (st : Station) : State :=
  { s with referrals := s.referrals.filter (fun r => r.station != st) }

/-- Remove one referral by id; no two hold the same id (R120). -/
def State.removeReferral (s : State) (id : Nat) : State :=
  { s with referrals := s.referrals.filter (fun r => r.id != id) }

/-- Whether the queue holds a TOPUP for a mirror (R122). -/
def State.topupWaits (s : State) (account : Word) : Bool :=
  s.referrals.any (fun r => r.kind == .topup && r.account == account)

/-! ### Spent totals -/

/-- A debit to a card slot is added to the session's spent total (R6, R11). -/
def State.spend (s : State) (st : Station) (slot : SlotKind) (k : Nat) : State :=
  { s with
    sessions := if slot = .card then
        s.sessions.set st (s.sessions[st].map (fun x => { x with spent := x.spent + k }))
      else s.sessions }

/-! ### How a run becomes IDLE (R53, R67) -/

/-- The close debit: A rounded half up to units, less the interims (R40). -/
def Job.finalDebit (j : Job) : Nat := (j.charge + 50) / 100 - j.settled

/-- The RUN_CLOSE record of a close (R67, step 5). -/
def Job.closeEntry (j : Job) (st : Station) (reason : CloseReason) (disputed : Nat) : LogEntry :=
  .runClose
    { station := st, account := j.account, slot := j.slot, tier := j.tier, generation := j.generation, reason := reason
      delivered := j.delivered, credited := j.credited, disputed := disputed, jams := j.jams
      charge := j.charge, settled := j.settled, final := j.finalDebit }

/-- Close an open run: R67 with R74 (the path's sheets disputed), R129 (its TOPUP removed), R87 and R89 (its timers stopped), R168
(RUN_CLOSED latched) and R68 (the draining test). -/
def State.closeJob (s : State) (st : Station) (j : Job) (reason : CloseReason) : State :=
  let disputed := j.disputed + s.paths[st].length
  s |>.setPath st []
    |>.mapCredit j.slot j.account (Credit.closeDebit st j.finalDebit j.hold)
    |>.spend st j.slot j.finalDebit
    |>.leaveBank j.bank
    |>.append (j.closeEntry st reason disputed)
    |>.setMeters st (s.meters[st].close j.credited disputed)
    |>.idleRun st
    |>.unreserve
    |>.freeMirror j.slot j.account
    |>.dropReferrals st
    |>.stopRunTimers st
    |>.latch .runClosed
    |>.drainTest st

/-- Return an open run from REFERRAL to IDLE (R53): nothing is debited and no record is written. -/
def State.returnJob (s : State) (st : Station) (j : Job) (outcome : LastOutcome) : State :=
  s |>.dropReferrals st
    |>.mapCredit j.slot j.account (Credit.leave st)
    |>.freeMirror j.slot j.account
    |>.leaveBank j.bank
    |>.unreserve
    |>.setRun st (Run.idle outcome)
    |>.stopRunTimers st
    |>.drainTest st

/-! ### Interim settlement (R39, R66, R78) -/

/-- The in-path charge P (R71). -/
def pathCharge (path : List PathEntry) : Nat := (path.map (·.price)).sum

/-- What became of the interim a delivery may call for (R79). -/
inductive InterimResult where
  | none
  | skipped
  | made (amount seq : Nat)
  deriving DecidableEq, Repr

/-- The delivered charge not yet settled, E, in fine units (R39). -/
def Job.unsettled (j : Job) (path : List PathEntry) : Nat := j.charge - pathCharge path - 100 * j.settled

/-- Whether a run's delivered-since-interim count meets the interim trigger (R78). -/
def State.interimDue (s : State) (j : Job) : Bool :=
  s.params.interimInterval != 0 && s.params.interimInterval ≤ j.sinceInterim

/-- Apply an interim debit of `k` units and write its record (R39, R66). -/
def State.settleInterim (s : State) (st : Station) (j : Job) (k : Nat) : State :=
  s |>.setJob st { j with settled := j.settled + k, hold := j.hold - k, sinceInterim := 0 }
    |>.mapCredit j.slot j.account (Credit.interimDebit k)
    |>.spend st j.slot k
    |>.append (.runInterim
        { station := st, account := j.account, delivered := j.delivered, amount := k, settled := j.settled + k
          generation := j.generation })

/-- Test the interim trigger after a delivery, and make or skip the interim (R66, R78). -/
def State.interim (s : State) (st : Station) : State × InterimResult :=
  match s.job st with
  | none => (s, .none)
  | some j =>
    if s.interimDue j = false then (s, .none)
    else if s.admits = false then (s, .skipped)
    else if j.unsettled s.paths[st] / 100 = 0 then (s.setJob st { j with sinceInterim := 0 }, .made 0 0)
    else (s.settleInterim st j (j.unsettled s.paths[st] / 100), .made (j.unsettled s.paths[st] / 100) s.logNext)

/-! ### Deliveries (R76, R77) -/

/-- How many entries from the head have a seq of at most `seq` (R77). -/
def deliverable (path : List PathEntry) (seq : Nat) : Nat := (path.takeWhile (fun e => e.seq ≤ seq)).length

/-- Deliver the `n` oldest entries of a station's list (R76). -/
def State.deliver (s : State) (st : Station) (n : Nat) : State :=
  let out := s.paths[st].take n
  { s with
    paths := s.paths.set st (s.paths[st].drop n)
    meters := s.meters.set st (out.foldl Meters.deliver s.meters[st])
    runs := s.runs.set st
      { s.runs[st] with
        job := s.runs[st].job.map (fun j =>
          { j with delivered := j.delivered + out.length, sinceInterim := j.sinceInterim + out.length }) } }

/-! ### Card sessions and the capture queue (Chapter 5) -/

/-- Capture allocation: oldest first, each takes what it can of the spent total (R103). -/
def allocate : Nat → List Auth → List Auth
  | _, [] => []
  | spent, a :: rest => { a with capture := some (min a.amount spent) } :: allocate (spent - min a.amount spent) rest

/-- The capture order of one authorization (R104). -/
def Auth.order (st : Station) (a : Auth) : Order :=
  { station := st, reference := a.reference
    kind := if a.capture.getD 0 = 0 then .release else .capture
    amount := a.capture.getD 0 }

/-- Whether the capture queue has room for every order of a session (R104). -/
def State.captureRoom (s : State) (x : Session) : Bool :=
  s.captureQueue.length + x.auths.length ≤ Config.captureCapacity

/-- A session enters CAPTURING: its orders join the tail together, its card slot ceases to exist, and the stall timing starts where
its first order becomes the head (R104, R111). -/
def State.enterCapturing (s : State) (st : Station) (x : Session) : State :=
  { s with
    captureQueue := s.captureQueue ++ x.auths.map (Auth.order st)
    sessions := s.sessions.set st (some { x with state := .capturing, idleTimer := none })
    cards := s.cards.set st none
    stallTimer := if s.captureQueue.isEmpty then some s.params.captureStall else s.stallTimer
    headAge := if s.captureQueue.isEmpty then 0 else s.headAge }

/-- A session enters CLOSING and joins the tail of the closing wait (R104). -/
def State.enterClosing (s : State) (st : Station) (x : Session) : State :=
  { s with
    sessions := s.sessions.set st (some { x with state := .closing, idleTimer := none })
    closingWait := s.closingWait ++ [st] }

/-- The session's authorizations with their capture amounts (R103). -/
def Session.allocated (x : Session) : Session := { x with auths := allocate x.spent x.auths }

/-- A session leaves OPEN: allocation, admission to the queue, and the draining test (R103, R104, R162). -/
def State.leaveOpen (s : State) (st : Station) (x : Session) : State :=
  (if s.closingWait.isEmpty && s.captureRoom x then s.enterCapturing st x.allocated
   else s.enterClosing st x.allocated).drainTest st

/-- Store an outcome in the authorization an order was formed for (R106, R108). -/
def Session.answer (x : Session) (reference : Word) (outcome : AuthOutcome) : Session :=
  { x with auths := x.auths.map (fun a => if a.reference = reference then { a with outcome := outcome } else a) }

/-- Whether every authorization has an outcome other than PENDING (R112). -/
def Session.answered (x : Session) : Bool := x.auths.all (fun a => a.outcome != .pending)

/-- The SESSION record (R112). -/
def Session.entry (x : Session) (st : Station) : LogEntry :=
  .session { station := st, tier := x.tier, spent := x.spent, auths := x.auths }

/-- Whether a session would be logged now (R112). -/
def State.logsNow (s : State) (st : Station) : Bool := s.sessions[st].any (·.answered)

/-- Write the SESSION record into its reserved space; the session becomes NONE (R112). -/
def State.logSession (s : State) (st : Station) : State :=
  match s.sessions[st] with
  | none => s
  | some x =>
    if x.answered then
      s |>.append (x.entry st) |>.unreserve |>.setSession st none |>.latch .sessionLogged
    else s

/-- Try the closing wait: sessions enter CAPTURING in order while they fit (R113). -/
def State.tryWait : List Station → State → State
  | [], s => { s with closingWait := [] }
  | st :: rest, s =>
    match s.sessions[st] with
    | none => { s with closingWait := st :: rest }
    | some x => if s.captureRoom x then (s.enterCapturing st x).tryWait rest else { s with closingWait := st :: rest }
  termination_by structural wait => wait

/-- The stall timing and the age start afresh for the head there now, or stop with an empty queue (R111). -/
def State.newHead (s : State) : State :=
  { s with
    stallTimer := if s.captureQueue.isEmpty then none else some s.params.captureStall
    headAge := 0 }

/-- The head order leaves the queue and its outcome is stored in its authorization (R108, steps 1 and 2; R110). -/
def State.storeOutcome (s : State) (head : Order) (rest : List Order) (outcome : AuthOutcome) : State :=
  { s with
    captureQueue := rest
    sessions := s.sessions.set head.station (s.sessions[head.station].map (·.answer head.reference outcome)) }

/-- The head order leaves the queue with an outcome: R108 steps 1, 2 and 4 to 6, which R110 shares. -/
def State.removeHead (s : State) (head : Order) (rest : List Order) (outcome : AuthOutcome) : State :=
  let logged := (s.storeOutcome head rest outcome).logSession head.station
  (State.tryWait logged.closingWait logged).newHead

end Sys2Proof.Machine
end

