-- ==== Sys2Proof/Machine/Pricing.lean ====
section
/-! DEFINITION. The price engine (section 2.3): the four stages of a sheet's price, and the coverage of a sheet by the run's hold
(R38). Every stage's result is a whole number of fine units. -/

namespace Sys2Proof.Machine

/-- The colour mode of a sheet kind (R33). -/
def kindMode (k : SheetKind) : ColourMode := if 8 ≤ k.val then .colour else .mono

/-- The media class and colour mode as a sheet kind (00_scope.md, R54). -/
def kindOf (media : Fin 8) : ColourMode → SheetKind
  | .mono => ⟨media.val, by omega⟩
  | .colour => ⟨media.val + 8, by omega⟩

/-- The run's net count of a colour mode (R33). -/
def Job.net (j : Job) : ColourMode → Nat
  | .mono => j.netMono
  | .colour => j.netColour

/-- Stages 1 and 2: the raw price R, face plus back (R34). -/
def rawPrice (t : TierPrices) (k : SheetKind) (sides : Sides) : Nat :=
  t.base[k] + (if sides = .duplex then t.base[k] * t.back / 100 else 0)

/-- Whether a break qualifies for the ordinal `n` (R35). -/
def Break.qualifies (n : Nat) (v : Break) : Bool := v.threshold != 0 && v.threshold ≤ n

/-- The better of the break chosen so far and a later one: the greater threshold, and on a tie the higher break number (R35). -/
def betterBreak (n : Nat) (best v : Break) : Break :=
  if v.qualifies n && best.threshold ≤ v.threshold then v else best

/-- Stage 3: the discount d for the ordinal `n`; 0 where no break qualifies (R35). -/
def discountFor (t : TierPrices) (n : Nat) : Nat := (t.breaks.toList.foldl (betterBreak n) Break.unused).discount

/-- Stage 4: R × (1,000 − d) / 1,000 rounded half up (R36). -/
def discounted (raw d : Nat) : Nat := (raw * (1000 - d) + 500) / 1000

/-- The sheet price D for the ordinal `n` (R33 to R36). -/
def sheetPrice (t : TierPrices) (k : SheetKind) (sides : Sides) (n : Nat) : Nat :=
  discounted (rawPrice t k sides) (discountFor t n)

/-- The price of a run's next sheet: from its captured bank and tier, at its net count of the colour mode plus 1 (R26, R33). -/
def State.priceFor (s : State) (j : Job) (k : SheetKind) (sides : Sides) : Nat :=
  sheetPrice (s.bank j.bank).tiers[j.tier] k sides (j.net (kindMode k) + 1)

/-- The hold a run needs before a sheet of price `d` may be granted (R38). -/
def Job.neededHold (j : Job) (d : Nat) : Nat := (j.charge + d + 99) / 100 - j.settled

/-- The cover of one sheet: the units the hold must grow by, or why it cannot be covered and by how much it falls short (R38). -/
inductive Cover where
  | covered (grown : Nat)
  | short (why : StopReason) (shortfall : Nat)
  deriving DecidableEq, Repr

/-- The coverage test of R38, with the growth of R10. -/
def State.coverFor (s : State) (j : Job) (d : Nat) : Cover :=
  if j.neededHold d ≤ j.hold then .covered 0
  else
    match s.growthFor j.slot j.account (j.neededHold d - j.hold) with
    | .grown units => .covered units
    | .failed why => .short why (j.neededHold d - j.hold)

end Sys2Proof.Machine
end

