-- ==== Sys2Proof/Machine/Operands.lean ====
section
/-! DEFINITION. The operand forms of requests and the layouts of answers (section 9.4): reading enumerated fields, the codes of
enumerations and responses, and the byte images of records, orders and referrals. -/

namespace Sys2Proof.Machine

/-! ### Enumerated fields as received; an unlisted code reads as none -/

def readStation (x : Byte) : Option Station := if h : x.toNat < 8 then some ⟨x.toNat, h⟩ else none
def readTier (x : Byte) : Option Tier := if h : x.toNat < 4 then some ⟨x.toNat, h⟩ else none
def readMedia (x : Byte) : Option (Fin 8) := if h : x.toNat < 8 then some ⟨x.toNat, h⟩ else none
def readSheetKind (x : Byte) : Option SheetKind := if h : x.toNat < 16 then some ⟨x.toNat, h⟩ else none
def readColour (x : Byte) : Option ColourMode := if x = 0 then some .mono else if x = 1 then some .colour else none
def readSides (x : Byte) : Option Sides := if x = 0 then some .simplex else if x = 1 then some .duplex else none
def readBank (x : Byte) : Option BankName := if x = 1 then some .a else if x = 2 then some .b else none
def readAcctKind (x : Byte) : Option AcctKind := if x = 1 then some .prepaid else if x = 2 then some .postpaid else none
def readAcctState (x : Byte) : Option AcctState := if x = 1 then some .opened else if x = 2 then some .frozen else none

/-- A CAPTURE_RESULT outcome: DONE or FAILED (R108). -/
def readResult (x : Byte) : Option AuthOutcome := if x = 1 then some .done else if x = 2 then some .failed else none

/-- A link given as its request address (R158). -/
def readLink (x : Byte) : Option Link :=
  match readStation x with
  | some st => some (.c st)
  | none => if x = 0x20 then some .p else if x = 0x30 then some .m else none

/-- The mode flags part of STATION_SET; bits 3 to 7 are ignored (R161). -/
def readFlags (x : Byte) : ModeFlags := ⟨x.getLsbD 0, x.getLsbD 1, x.getLsbD 2⟩

/-- A template (R45, check 1). -/
def readTemplate (f : LoadFields) : Option Template :=
  match readMedia f.media, readColour f.colour, readSides f.sides with
  | some media, some mode, some sides => some ⟨media, mode, sides⟩
  | _, _, _ => none

/-- The overrides of an ADVANCE: each tag at most once, each value in its range (R54). -/
structure Overrides where
  kind : Option SheetKind
  sides : Option Sides
  deriving DecidableEq, Repr

/-- Take one override into those read so far; none where R54 refuses it. -/
def Overrides.take (got : Overrides) (o : Override) : Option Overrides :=
  if o.tag = 1 ∧ got.kind = none then (readSheetKind o.value).map (fun k => { got with kind := some k })
  else if o.tag = 2 ∧ got.sides = none then (readSides o.value).map (fun v => { got with sides := some v })
  else none

def readOverrides : List Override → Overrides → Option Overrides
  | [], got => some got
  | o :: rest, got =>
    match got.take o with
    | none => none
    | some got' => readOverrides rest got'

/-! ### Codes of enumerations -/

def flag (b : Bool) : Nat := if b then 1 else 0
def ColourMode.code : ColourMode → Nat | .mono => 0 | .colour => 1
def Sides.code : Sides → Nat | .simplex => 0 | .duplex => 1
def BankName.code : BankName → Nat | .a => 1 | .b => 2
def SlotKind.code : SlotKind → Nat | .house => 1 | .card => 2 | .mirror => 3
def AcctKind.code : AcctKind → Nat | .prepaid => 1 | .postpaid => 2
def AcctState.code : AcctState → Nat | .opened => 1 | .frozen => 2
def MirrorState.code : MirrorState → Nat | .pending => 3 | .active => 4
def RunState.code : RunState → Nat | .referral => 1 | .active => 2 | .starved => 3 | .jammed => 4 | .finishing => 5
def StopReason.code : StopReason → Nat | .none => 0 | .runLimit => 1 | .pathFull => 2 | .noCredit => 3 | .frozen => 4
def LastOutcome.code : LastOutcome → Nat | .none => 0 | .granted => 1 | .denied => 2 | .timedOut => 3 | .cancelled => 4
def CloseReason.code : CloseReason → Nat
  | .normal => 1 | .idle => 2 | .jamTimeout => 3 | .linkLost => 4 | .console => 5 | .teardown => 6
def SessionState.code : SessionState → Nat | .opened => 1 | .closing => 2 | .capturing => 3
def AuthOutcome.code : AuthOutcome → Nat | .pending => 0 | .done => 1 | .failed => 2 | .abandoned => 3
def OrderKind.code : OrderKind → Nat | .capture => 1 | .release => 2
def ReferralKind.code : ReferralKind → Nat | .opening => 1 | .topup => 2
def ReferralState.code : ReferralState → Nat | .waiting => 1 | .fetched => 2
def StationState.code : StationState → Nat | .off => 0 | .enabled => 1 | .draining => 2 | .held => 3
def PriorState.code : PriorState → Nat | .enabled => 1 | .draining => 2
def Presence.code : Presence → Nat | .present => 0 | .silent => 1
def ResetCause.code : ResetCause → Nat | .powerOn => 1 | .resetPin => 2 | .warm => 3

/-- The response codes (section 9.4, "Response codes"). -/
def RespCode.code : RespCode → Nat
  | .ok => 0x00 | .pending => 0x01 | .none => 0x02 | .empty => 0x03 | .endOfTable => 0x04
  | .badFormat => 0x10 | .access => 0x11 | .badValue => 0x12 | .stationOff => 0x13 | .held => 0x14 | .stationHeld => 0x15
  | .disabled => 0x16 | .busy => 0x17 | .noPrices => 0x18 | .logFull => 0x19 | .noSession => 0x1A | .sessionOpen => 0x1B
  | .notFound => 0x1C | .frozen => 0x1D | .accountBusy => 0x1E | .noSlot => 0x1F | .noRun => 0x20 | .referral => 0x21
  | .jammed => 0x22 | .finishing => 0x23 | .sequence => 0x24 | .duplicate => 0x25 | .tableFull => 0x26 | .limit => 0x27
  | .conflict => 0x28 | .balance => 0x29 | .bankBusy => 0x2A | .sameBank => 0x2B | .stationBusy => 0x2C | .authLimit => 0x2D
  | .sessionBusy => 0x2E | .tooLate => 0x2F | .state => 0x30 | .routed => 0x31 | .notLocal => 0x32 | .insufficient => 0x33

/-- A code of a thing that may be absent: 0 where absent (R179). -/
def codeOr0 {α : Type} (code : α → Nat) : Option α → Nat
  | none => 0
  | some x => code x

/-- A set of members each present or absent, bit i for the i-th (R179). -/
def memberBits : List Bool → Nat
  | [] => 0
  | m :: rest => flag m + 2 * memberBits rest

/-- The three mode flags in one byte (R179). -/
def ModeFlags.bits (f : ModeFlags) : Nat := memberBits [f.accountRuns, f.cardRuns, f.remoteRuns]

/-! ### Responses -/

/-- A refusal without a body (R179). -/
def Response.refuse (code : RespCode) : Response := ⟨code, []⟩

/-- An OK answer. -/
def Response.okWith (body : List Byte) : Response := ⟨.ok, body⟩

/-- The bytes of a response frame: the request's address plus 0x80 (R154). -/
def Response.bytes (r : Response) (link : Link) : List Byte :=
  frameBytes (link.address + 0x80) (BitVec.ofNat 8 r.code.code) r.body

/-! ### Images (section 9.4) -/

/-- The fields of the account record image that the three kinds give apart. -/
structure AcctImage where
  number : Word
  slot : SlotKind
  kindCode : Nat
  tier : Tier
  stateCode : Nat
  limit : Nat
  maxRuns : Nat
  credit : Credit
  deriving DecidableEq, Repr

def HouseRecord.image (r : HouseRecord) : AcctImage :=
  { number := r.number, slot := .house, kindCode := r.kind.code, tier := r.tier, stateCode := r.state.code
    limit := r.limit, maxRuns := r.maxRuns, credit := r.credit }

def Mirror.image (m : Mirror) : AcctImage :=
  { number := m.number, slot := .mirror, kindCode := 0, tier := m.tier, stateCode := m.state.code
    limit := 0, maxRuns := 0, credit := m.credit }

/-- A card slot's image carries the session's tier (R13). -/
def cardImage (st : Station) (tier : Tier) (c : Credit) : AcctImage :=
  { number := cardNumber st, slot := .card, kindCode := 0, tier := tier, stateCode := 0, limit := 0, maxRuns := 0, credit := c }

/-- The account record image, `adjust` being the ADJUST record's number or 0 (R13). -/
def AcctImage.bytes (i : AcctImage) (adjust : Nat) : List Byte :=
  be4 i.number.toNat ++ be1 i.slot.code ++ be1 i.kindCode ++ be1 i.tier.val ++ be1 i.stateCode ++
    be4s i.credit.balance ++ be4 i.limit ++ be4 i.credit.held ++ be4s (i.credit.balance + i.limit - i.credit.held) ++
    be1 i.maxRuns ++ be1 i.credit.runList.length ++ be2 adjust ++ i.credit.runList.flatMap (fun st => be1 st.val)

def Auth.bytes (a : Auth) : List Byte :=
  be4 a.reference.toNat ++ be4 a.amount ++ be4 (a.capture.getD 0) ++ be1 a.outcome.code

/-- The image of a settlement record (R134). -/
def LogRecord.bytes (r : LogRecord) : List Byte :=
  match r.entry with
  | .runClose e =>
    be1 1 ++ be2 r.seq ++ be1 e.station.val ++ be4 e.account.toNat ++ be1 e.slot.code ++ be1 e.tier.val ++
      be2 e.generation ++ be1 e.reason.code ++ be2 e.delivered ++ be2 e.credited ++ be2 e.disputed ++ be1 e.jams ++
      be4 e.charge ++ be4 e.settled ++ be4 e.final
  | .runInterim e =>
    be1 2 ++ be2 r.seq ++ be1 e.station.val ++ be4 e.account.toNat ++ be2 e.delivered ++ be4 e.amount ++
      be4 e.settled ++ be2 e.generation
  | .session e =>
    be1 3 ++ be2 r.seq ++ be1 e.station.val ++ be1 e.tier.val ++ be1 e.auths.length ++ be4 e.spent ++
      e.auths.flatMap Auth.bytes
  | .adjust account delta balance => be1 4 ++ be2 r.seq ++ be4 account.toNat ++ be4s delta ++ be4s balance
  | .swap bank generation => be1 5 ++ be2 r.seq ++ be1 bank.code ++ be2 generation

/-- The capture order image. -/
def Order.bytes (o : Order) : List Byte :=
  be1 o.station.val ++ be4 o.reference.toNat ++ be1 o.kind.code ++ be4 o.amount

/-- The referral image. -/
def Referral.bytes (r : Referral) : List Byte :=
  be1 r.id ++ be1 r.kind.code ++ be1 r.station.val ++ be4 r.account.toNat ++ be4 r.requested ++ be1 r.state.code ++
    be1 r.timeout

/-- An interim result: its code, the debit and the record's number (R79, "interim result"). -/
def InterimResult.bytes : InterimResult → List Byte
  | .none => be1 0 ++ be4 0 ++ be2 0
  | .skipped => be1 1 ++ be4 0 ++ be2 0
  | .made amount seq => be1 2 ++ be4 amount ++ be2 seq

/-- The final debit and the RUN_CLOSE record's number, both 0 where the request closed no run (R179). -/
structure Closing where
  final : Nat
  seq : Nat
  deriving DecidableEq, Repr

def Closing.none : Closing := ⟨0, 0⟩

def Closing.bytes (c : Closing) : List Byte := be4 c.final ++ be2 c.seq

/-- The run state code of a station; 0 is IDLE. -/
def State.runCode (s : State) (st : Station) : Nat := codeOr0 (fun j : Job => j.state.code) (s.job st)

/-- The session state code of a station; 0 is NONE. -/
def State.sessionCode (s : State) (st : Station) : Nat := codeOr0 (fun x : Session => x.state.code) s.sessions[st]

/-- The card slot's balance, 0 where the station has none (R60, R165). -/
def State.cardBalance (s : State) (st : Station) : Int := (s.cards[st].map (·.balance)).getD 0

/-- A run's next seq: granted plus 1 (R42). -/
def Job.nextSeq (j : Job) : Nat := j.granted + 1

end Sys2Proof.Machine
end

