-- ==== Sys2Proof/Machine/Ports.lean ====
section
/-! DEFINITION. What a link port does with a valid frame before and after its owning block (Chapter 8): presence, access class, body
length, counters, and the response. -/

namespace Sys2Proof.Machine

/-- The port of a link. -/
def Io.port (io : Io) : Link → Port
  | .c n => io.cPorts[n]
  | .p => io.pPort
  | .m => io.mPort

/-- Replace the port of a link. -/
def Io.setPort (io : Io) (link : Link) (port : Port) : Io :=
  match link with
  | .c n => { io with cPorts := io.cPorts.set n port }
  | .p => { io with pPort := port }
  | .m => { io with mPort := port }

def State.port (s : State) (link : Link) : Port := s.io.port link

def State.setPort (s : State) (link : Link) (port : Port) : State := { s with io := s.io.setPort link port }

/-- A link counter raised by one, stopping at 65,535 (R157). -/
def countUp (n : Nat) : Nat := if Config.counterStop ≤ n then Config.counterStop else n + 1

/-- Set a link's receiver. -/
def State.setReceiver (s : State) (link : Link) (r : Receiver) : State :=
  s.setPort link { s.port link with receiver := r }

/-- Count a discard; on an armed link it latches DISCARDS and disarms the link (R157). -/
def State.noteDiscard (s : State) (link : Link) : State :=
  (s.setPort link { s.port link with discarded := countUp (s.port link).discarded, armed := false }).latchIf
    (s.port link).armed .discards

/-- Count an accepted frame (R156). -/
def State.countAccepted (s : State) (link : Link) : State :=
  s.setPort link { s.port link with accepted := countUp (s.port link).accepted }

/-- Count a frame the port refuses itself (R156). -/
def State.countRefused (s : State) (link : Link) : State :=
  s.setPort link { s.port link with refused := countUp (s.port link).refused }

/-- The waiting response of the M-link is gone (R151). -/
def State.dropResponse (s : State) : State := { s with io := { s.io with mWaiting := none, mSent := 0 } }

/-- Form a response on a link: it joins the responses of a UART link, or becomes the M-link's waiting one (R150, R151). -/
def State.respond (s : State) (link : Link) (r : Response) : State :=
  match link with
  | .c n => { s with io := { s.io with cOut := s.io.cOut.set n (s.io.cOut[n] ++ [r]) } }
  | .p => { s with io := { s.io with pOut := s.io.pOut ++ [r] } }
  | .m => { s with io := { s.io with mWaiting := some r, mSent := 0 } }

/-- The silence timer after a valid frame: stopped in OFF, set to its full value otherwise (R164). -/
def State.silenceAfterFrame (s : State) (r : StationRecord) : Option Nat :=
  if r.state = .off then r.silence else some s.params.silence

/-- A valid frame on a station's link: the station is PRESENT, and coming back from SILENT latches STATION_BACK and stops the lost
timer (R164, R89). -/
def State.hearStation (s : State) (st : Station) : State :=
  { s with
    stations := s.stations.set st
      { s.stations[st] with presence := .present, silence := s.silenceAfterFrame s.stations[st] }
    lostTimers := if s.isSilent st then s.lostTimers.set st none else s.lostTimers
    latched := if s.isSilent st then s.latched ||| Event.stationBack.mask else s.latched }

/-- A valid frame has been received on a link: its receiver is in HUNT; on a C-link the station is heard; on the M-link its start
byte discarded the waiting response (R151, R153, R164). -/
def State.validFrame (s : State) (link : Link) : State :=
  match link with
  | .c n => (s.setReceiver link .hunt).hearStation n
  | .p => s.setReceiver link .hunt
  | .m => (s.setReceiver link .hunt).dropResponse

/-- A frame refused by the port without an access fault (R156, checks 1 and 3). -/
def State.refuseFormat (s : State) (link : Link) : State :=
  (s.countRefused link).respond link (.refuse .badFormat)

/-- Replace the last-violation record (R157). -/
def State.setViolation (s : State) (v : Option Violation) : State := { s with io := { s.io with lastViolation := v } }

/-- A frame refused ACCESS (R156, check 2). -/
def State.refuseAccess (s : State) (link : Link) (code : Byte) : State :=
  ((((s.countRefused link).setViolation (some ⟨link, code⟩)).latch .accessViolation)).respond link (.refuse .access)

/-- What the owning block does with a request: the state after it, and its answer. -/
abbrev Taken := State × Response

/-- A refusal that changes nothing. -/
def State.refuse (s : State) (code : RespCode) : Taken := (s, .refuse code)

/-- An OK answer that changes nothing. -/
def State.answer (s : State) (body : List Byte) : Taken := (s, .okWith body)

/-- Answer on a link with what the owning block took. -/
def Taken.reply (t : Taken) (link : Link) : State := t.1.respond link t.2

/-- A frame whose bytes come while the receiver is in SKIP is ignored (R153). -/
def State.deaf (s : State) (link : Link) : Bool := (s.port link).receiver == .skip

/-- Hand on to the owning block a frame that has passed the port's checks (R156). -/
def State.handOn (s : State) (link : Link) : State := (s.validFrame link).countAccepted link

/-- A request's frame at its port (R156): ignored in SKIP; refused ACCESS on another link kind; refused BAD_FORMAT for a wrong body
length; otherwise counted, taken by its block, and answered. -/
def State.request {α : Type} (s : State) (link : Link) (code : Byte) (kind : LinkKind) (body : Body α)
    (take : α → State → Taken) : State :=
  if s.deaf link then s
  else if link.kind ≠ kind then (s.validFrame link).refuseAccess link code
  else
    match body with
    | .wrongLength => (s.validFrame link).refuseFormat link
    | .of fields => (take fields (s.handOn link)).reply link

/-- The station of a C-link; requests of the other links never reach a station's block by it (R155). -/
def stationOf : Link → Station
  | .c n => n
  | .p => 0
  | .m => 0

/-- The station-state test of R160: OFF and HELD stations refuse every request of their C-link. -/
def State.gate (s : State) (st : Station) (take : State → Taken) : Taken :=
  match s.stations[st].state with
  | .off => s.refuse .stationOff
  | .held => s.refuse .held
  | .enabled => take s
  | .draining => take s

/-- A body whose variable part must have one of the code's lengths (R156, check 3). -/
def bodyIf {α : Type} (check : α → Bool) : Body α → Body α
  | .of fields => if check fields then .of fields else .wrongLength
  | .wrongLength => .wrongLength

/-- The next state of a command. -/
def done (s : State) : Host.Outcome State Fault Refusal := .next s

end Sys2Proof.Machine
end

