-- ==== Sys2Proof/Machine/Accounts.lean ====
section
/-! DEFINITION. The console's account requests (section 1.3): ACCT_CREATE, ACCT_UPDATE, ACCT_READ, ACCT_NEXT and ACCT_DELETE. -/

namespace Sys2Proof.Machine

/-- A max runs above 8 is taken as 8 (R14, R16). -/
def clampRuns (x : Byte) : Nat := min Config.maxRunsMax x.toNat

/-- Whether a balance is within the range of R3. -/
def balanceInRange (v : Int) : Bool := Config.balanceMin ≤ v && v ≤ Config.balanceMax

/-- Put a record into the house table at its place in number order (R15). -/
def insertHouse (r : HouseRecord) : List HouseRecord → List HouseRecord
  | [] => [r]
  | x :: rest => if r.number.toNat < x.number.toNat then r :: x :: rest else x :: insertHouse r rest

def State.addHouse (s : State) (r : HouseRecord) : State := { s with house := insertHouse r s.house }

/-- Replace the house record with a number. -/
def State.replaceHouse (s : State) (r : HouseRecord) : State :=
  { s with house := s.house.map (fun x => if x.number = r.number then r else x) }

/-- Remove the house record with a number (R20). -/
def State.removeHouse (s : State) (n : Word) : State := { s with house := s.house.filter (fun r => r.number != n) }

/-- The OK answer with a record image (R13). -/
def imageAnswer (i : AcctImage) (adjust : Nat) : Response := .okWith (i.bytes adjust)

/-- Write an ADJUST record where a balance changed, and answer its number or 0 (R21). -/
def State.adjust (s : State) (account : Word) (delta balance : Int) : State :=
  if delta = 0 then s else s.append (.adjust account delta balance)

def State.adjustSeq (s : State) (delta : Int) : Nat := if delta = 0 then 0 else s.logNext

/-! ### ACCT_CREATE (R14, R15) -/

/-- The record an ACCT_CREATE asks for, with the kind and tier read: a PREPAID limit is taken as 0, a max runs above 8 as 8 (R14). -/
def createRecord (f : AcctCreateFields) (kind : AcctKind) (tier : Tier) : HouseRecord :=
  { number := f.number, kind := kind, tier := tier, state := .opened
    limit := if kind = .prepaid then 0 else f.limit.toNat
    maxRuns := clampRuns f.maxRuns
    credit := ⟨f.balance.toInt, 0, []⟩ }

/-- Checks 2 to 6 of R14, in order; none where all pass. -/
def State.createRefusal (s : State) (r : HouseRecord) : Option RespCode :=
  if s.isRemote r.number then some .routed
  else if (s.houseRecord r.number).isSome then some .duplicate
  else if Config.houseCapacity ≤ s.house.length then some .tableFull
  else if balanceInRange r.credit.balance = false ∨ r.credit.balance < -(r.limit : Int) then some .limit
  else if r.credit.balance ≠ 0 ∧ s.admits = false then some .logFull
  else none

/-- Create a record, with its ADJUST record where the initial balance is not 0 (R15). -/
def State.createHouse (s : State) (r : HouseRecord) : State :=
  (s.addHouse r).adjust r.number r.credit.balance r.credit.balance

/-- ACCT_CREATE (R14, R15). -/
def takeAcctCreate (f : AcctCreateFields) (s : State) : Taken :=
  match readAcctKind f.kind, readTier f.tier with
  | some kind, some tier =>
    if isOrdinary f.number = false ∨ Config.limitMax < (createRecord f kind tier).limit then s.refuse .badValue
    else
      match s.createRefusal (createRecord f kind tier) with
      | some code => s.refuse code
      | none =>
        (s.createHouse (createRecord f kind tier),
          imageAnswer (createRecord f kind tier).image (s.adjustSeq (createRecord f kind tier).credit.balance))
  | _, _ => s.refuse .badValue

def onAcctCreate (link : Link) (body : Body AcctCreateFields) (s : State) : State :=
  s.request link 0x40 .management body takeAcctCreate

/-- ACCT_CREATE. -/
def execAcctCreate (link : Link) (body : Body AcctCreateFields) (s : State) : Host.Outcome State Fault Refusal :=
  done (onAcctCreate link body s)

/-! ### ACCT_UPDATE (R16, R17) -/

/-- The masked fields of an ACCT_UPDATE as taken: an unmasked field is absent, and so is a BALANCE_DELTA of 0; an enumerated field
holds none inside where its code is not listed (R16). -/
structure Update where
  tier : Option (Option Tier)
  limit : Option Nat
  maxRuns : Option Nat
  state : Option (Option AcctState)
  delta : Option Int
  deriving DecidableEq, Repr

/-- Read the masked fields; a masked LIMIT on a PREPAID record is taken as 0, a masked MAX_RUNS above 8 as 8 (R16). -/
def updateOf (f : AcctUpdateFields) (kind : AcctKind) : Update :=
  { tier := if f.mask.getLsbD 0 then some (readTier f.tier) else none
    limit := if f.mask.getLsbD 1 then some (if kind = .prepaid then 0 else f.limit.toNat) else none
    maxRuns := if f.mask.getLsbD 2 then some (clampRuns f.maxRuns) else none
    state := if f.mask.getLsbD 3 then some (readAcctState f.state) else none
    delta := if f.mask.getLsbD 4 ∧ f.delta.toInt ≠ 0 then some f.delta.toInt else none }

/-- The record with every masked field applied together (R16, R17). -/
def Update.apply (u : Update) (r : HouseRecord) : HouseRecord :=
  { r with
    tier := (u.tier.getD none).getD r.tier
    limit := u.limit.getD r.limit
    maxRuns := u.maxRuns.getD r.maxRuns
    state := (u.state.getD none).getD r.state
    credit := { r.credit with balance := r.credit.balance + u.delta.getD 0 } }

/-- Checks 4 to 8 of R16, in order, against the record as it would stand. -/
def State.updateRefusal (s : State) (r : HouseRecord) (u : Update) : Option RespCode :=
  if u.tier = some none ∨ u.state = some none ∨ u.limit.any (fun l => Config.limitMax < l) then some .badValue
  else if u.maxRuns.any (fun m => m != 0 && m < r.credit.runList.length) then some .conflict
  else if balanceInRange (u.apply r).credit.balance = false then some .limit
  else if (u.limit.isSome ∨ u.delta.isSome) ∧
      (u.apply r).credit.balance - (u.apply r).credit.held < -((u.apply r).limit : Int) then some .insufficient
  else if u.delta.isSome ∧ s.admits = false then some .logFull
  else none

/-- Apply an update, with its ADJUST record where the balance changes (R17). -/
def State.updateHouse (s : State) (r : HouseRecord) (u : Update) : State :=
  (s.replaceHouse (u.apply r)).adjust r.number (u.delta.getD 0) (u.apply r).credit.balance

/-- ACCT_UPDATE (R16, R17). -/
def takeAcctUpdate (f : AcctUpdateFields) (s : State) : Taken :=
  if isNoNumber f.number then s.refuse .badValue
  else if isCardNumber f.number ∨ s.isRemote f.number then s.refuse .notLocal
  else
    match s.houseRecord f.number with
    | none => s.refuse .notFound
    | some r =>
      match s.updateRefusal r (updateOf f r.kind) with
      | some code => s.refuse code
      | none =>
        (s.updateHouse r (updateOf f r.kind),
          imageAnswer ((updateOf f r.kind).apply r).image (s.adjustSeq ((updateOf f r.kind).delta.getD 0)))

def onAcctUpdate (link : Link) (body : Body AcctUpdateFields) (s : State) : State :=
  s.request link 0x41 .management body takeAcctUpdate

/-- ACCT_UPDATE. -/
def execAcctUpdate (link : Link) (body : Body AcctUpdateFields) (s : State) : Host.Outcome State Fault Refusal :=
  done (onAcctUpdate link body s)

/-! ### ACCT_READ and ACCT_NEXT (R18, R19) -/

/-- The image of the record a number resolves to on the M-link (R1, R18). -/
def State.imageOf (s : State) (n : Word) : Option AcctImage :=
  if isCardNumber n then
    match s.cards[cardStation n], s.sessions[cardStation n] with
    | some c, some x => some (cardImage (cardStation n) x.tier c)
    | _, _ => none
  else if s.isRemote n then (s.mirrorOf n).map Mirror.image
  else (s.houseRecord n).map HouseRecord.image

/-- ACCT_READ (R18). -/
def takeAcctRead (n : Word) (s : State) : Taken :=
  if isNoNumber n then s.refuse .badValue
  else
    match s.imageOf n with
    | none => s.refuse .notFound
    | some i => (s, imageAnswer i 0)

def onAcctRead (link : Link) (body : Body Word) (s : State) : State := s.request link 0x42 .management body takeAcctRead

/-- ACCT_READ. -/
def execAcctRead (link : Link) (body : Body Word) (s : State) : Host.Outcome State Fault Refusal := done (onAcctRead link body s)

/-- The house record whose number is the least one greater than `n`: the first such in the table's ascending order (R3, R19). -/
def State.houseAfter (s : State) (n : Word) : Option HouseRecord := s.house.find? (fun r => n.toNat < r.number.toNat)

/-- ACCT_NEXT (R19). -/
def takeAcctNext (n : Word) (s : State) : Taken :=
  match s.houseAfter n with
  | none => (s, .refuse .endOfTable)
  | some r => (s, imageAnswer r.image 0)

def onAcctNext (link : Link) (body : Body Word) (s : State) : State := s.request link 0x43 .management body takeAcctNext

/-- ACCT_NEXT. -/
def execAcctNext (link : Link) (body : Body Word) (s : State) : Host.Outcome State Fault Refusal := done (onAcctNext link body s)

/-! ### ACCT_DELETE (R20) -/

/-- ACCT_DELETE (R20). -/
def takeAcctDelete (n : Word) (s : State) : Taken :=
  if isNoNumber n then s.refuse .badValue
  else if isCardNumber n ∨ s.isRemote n then s.refuse .notLocal
  else
    match s.houseRecord n with
    | none => s.refuse .notFound
    | some r =>
      if r.credit.runList.isEmpty = false then s.refuse .busy
      else if r.credit.balance ≠ 0 then s.refuse .balance
      else (s.removeHouse n, .okWith [])

def onAcctDelete (link : Link) (body : Body Word) (s : State) : State :=
  s.request link 0x44 .management body takeAcctDelete

/-- ACCT_DELETE. -/
def execAcctDelete (link : Link) (body : Body Word) (s : State) : Host.Outcome State Fault Refusal :=
  done (onAcctDelete link body s)

end Sys2Proof.Machine
end

