-- ==== Sys2Proof/Machine/Cards.lean ====
section
/-! DEFINITION. The card session unit's requests (Chapter 5): AUTH_NOTICE, SESSION_QUERY, END_SESSION, POLL, CAPTURE_RESULT,
CAPTURE_HEAD and CAPTURE_ABANDON. -/

namespace Sys2Proof.Machine

/-! ### AUTH_NOTICE (R96 to R98) -/

/-- The tier of a card class through the card class map: entry 0 for a class above 3 (R97). -/
def Params.classTier (p : Params) (cardClass : Byte) : Tier :=
  match readTier cardClass with
  | some entry => p.cardMap[entry]
  | none => p.cardMap[0]

/-- The authorization an AUTH_NOTICE brings (R93). -/
def authOf (f : AuthNoticeFields) : Auth :=
  { reference := f.reference, amount := f.amount.toNat, cardClass := f.cardClass, capture := none, outcome := .pending }

/-- Open a session: R97. -/
def State.openSession (s : State) (st : Station) (f : AuthNoticeFields) : State :=
  s |>.setSession st (some
        { state := .opened, tier := s.params.classTier f.cardClass, auths := [authOf f], spent := 0
          idleTimer := some s.params.cardIdle })
    |>.setCard st (some ⟨f.amount.toNat, 0, []⟩)
    |>.reserve

/-- A further authorization raises the card slot's balance by its amount (R6). -/
def Credit.topUp (units : Nat) (c : Credit) : Credit := { c with balance := c.balance + units }

/-- Top a session up: R98. -/
def State.topUpSession (s : State) (st : Station) (x : Session) (f : AuthNoticeFields) : State :=
  s |>.setSession st (some { x with auths := x.auths ++ [authOf f], idleTimer := some s.params.cardIdle })
    |>.setCard st (s.cards[st].map (Credit.topUp f.amount.toNat))

/-- The answer of an accepted AUTH_NOTICE, from the session as it then stands (R97, R98). -/
def State.authAnswer (s : State) (st : Station) : Response :=
  .okWith (be1 st.val ++ be1 (s.sessionCode st) ++ be1 (codeOr0 (fun x : Session => x.auths.length) s.sessions[st]) ++
    be4s (s.cardBalance st) ++ be1 (codeOr0 (fun x : Session => x.tier.val) s.sessions[st]))

/-- Checks 6 to 8, on a session that is NONE (R96). -/
def State.authOpen (s : State) (st : Station) (f : AuthNoticeFields) : Taken :=
  if s.stations[st].state = .draining then s.refuse .disabled
  else if s.runIdle st = false then s.refuse .stationBusy
  else if s.admits = false then (s.latch .admissionRefused).refuse .logFull
  else (s.openSession st f, (s.openSession st f).authAnswer st)

/-- Checks 9 to 11, on a session that is not NONE (R96). -/
def State.authTopUp (s : State) (st : Station) (x : Session) (f : AuthNoticeFields) : Taken :=
  if x.state ≠ .opened then s.refuse .sessionBusy
  else
    match x.auths.find? (fun a => a.reference == f.reference) with
    | some a => (s, ⟨.duplicate, be4 a.amount ++ be1 x.auths.length⟩)
    | none =>
      if Config.authCapacity ≤ x.auths.length then s.refuse .authLimit
      else (s.topUpSession st x f, (s.topUpSession st x f).authAnswer st)

/-- Checks 3 to 11 (R96). -/
def State.authChecks (s : State) (st : Station) (f : AuthNoticeFields) : Taken :=
  if s.stations[st].state = .off then s.refuse .stationOff
  else if s.stations[st].state = .held then s.refuse .stationHeld
  else if s.stations[st].flags.cardRuns = false then s.refuse .disabled
  else
    match s.sessions[st] with
    | none => s.authOpen st f
    | some x => s.authTopUp st x f

/-- AUTH_NOTICE (R96). -/
def takeAuthNotice (f : AuthNoticeFields) (s : State) : Taken :=
  match readStation f.station with
  | none => s.refuse .badValue
  | some st =>
    if f.amount.toNat = 0 ∨ Config.authAmountMax < f.amount.toNat then s.refuse .badValue else s.authChecks st f

def onAuthNotice (link : Link) (body : Body AuthNoticeFields) (s : State) : State :=
  s.request link 0x20 .payment body takeAuthNotice

/-- AUTH_NOTICE. -/
def execAuthNotice (link : Link) (body : Body AuthNoticeFields) (s : State) : Host.Outcome State Fault Refusal :=
  done (onAuthNotice link body s)

/-! ### SESSION_QUERY (R99) -/

/-- The card slot's held total, 0 where the station has none (R99). -/
def State.cardHeld (s : State) (st : Station) : Nat := codeOr0 (fun c : Credit => c.held) s.cards[st]

/-- One authorization as SESSION_QUERY carries it (R99). -/
def Auth.queryBytes (a : Auth) : List Byte :=
  be4 a.reference.toNat ++ be4 a.amount ++ [a.cardClass] ++ be4 (a.capture.getD 0) ++ be1 a.outcome.code

/-- The answer of SESSION_QUERY; in NONE the state alone (R99). -/
def State.sessionBody (s : State) (st : Station) : List Byte :=
  match s.sessions[st] with
  | none => be1 0
  | some x =>
    be1 x.state.code ++ be1 x.tier.val ++ be4s (s.cardBalance st) ++ be4 (s.cardHeld st) ++ be4 x.spent ++
      be1 x.auths.length ++ x.auths.flatMap Auth.queryBytes ++ be2 (secondsLeft x.idleTimer)

def takeSessionQuery (station : Byte) (s : State) : Taken :=
  match readStation station with
  | none => s.refuse .badValue
  | some st => s.answer (s.sessionBody st)

def onSessionQuery (link : Link) (body : Body Byte) (s : State) : State :=
  s.request link 0x21 .payment body takeSessionQuery

/-- SESSION_QUERY. -/
def execSessionQuery (link : Link) (body : Body Byte) (s : State) : Host.Outcome State Fault Refusal :=
  done (onSessionQuery link body s)

/-! ### END_SESSION (R102) -/

/-- The number of sessions ahead of a station's in the closing wait, 0 where it does not wait (R102). -/
def State.sessionsAhead (s : State) (st : Station) : Nat :=
  if s.closingWait.contains st then s.closingWait.idxOf st else 0

/-- The OK answer of END_SESSION, from the session as it then stands (R102). -/
def State.endSessionAnswer (s : State) (st : Station) : Response :=
  .okWith (be1 (s.sessionCode st) ++ be4 (codeOr0 (fun x : Session => x.spent) s.sessions[st]) ++
    be1 (codeOr0 (fun x : Session => x.auths.length) s.sessions[st]) ++
    (match s.sessions[st] with
      | none => []
      | some x => x.auths.flatMap (fun a => be4 (a.capture.getD 0))) ++
    be1 (s.sessionsAhead st))

/-- END_SESSION past the station-state test (R102). -/
def State.endSession (s : State) (st : Station) : Taken :=
  match s.sessions[st] with
  | none => s.refuse .noSession
  | some x =>
    if x.state ≠ .opened then (s, s.endSessionAnswer st)
    else if s.runIdle st = false then s.refuse .busy
    else (s.leaveOpen st x, (s.leaveOpen st x).endSessionAnswer st)

def takeEndSession (st : Station) (_ : Unit) (s : State) : Taken := s.gate st (fun s => s.endSession st)

def onEndSession (link : Link) (body : Body Unit) (s : State) : State :=
  s.request link 0x08 .station body (takeEndSession (stationOf link))

/-- END_SESSION. -/
def execEndSession (link : Link) (body : Body Unit) (s : State) : Host.Outcome State Fault Refusal :=
  done (onEndSession link body s)

/-! ### The capture queue (R107 to R110) -/

/-- POLL (R107): the head order and the number of orders. -/
def takePoll (_ : Unit) (s : State) : Taken :=
  match s.captureQueue with
  | [] => (s, .refuse .none)
  | head :: _ => s.answer (head.bytes ++ be1 s.captureQueue.length)

def onPoll (link : Link) (body : Body Unit) (s : State) : State := s.request link 0x22 .payment body takePoll

/-- POLL. -/
def execPoll (link : Link) (body : Body Unit) (s : State) : Host.Outcome State Fault Refusal := done (onPoll link body s)

/-- The session of the head order, once its outcome is stored, would be logged (R108, step 4). -/
def State.logsOnRemoval (s : State) (head : Order) (outcome : AuthOutcome) : Bool :=
  s.sessions[head.station].any (fun x => (x.answer head.reference outcome).answered)

/-- The answer of a CAPTURE_RESULT or CAPTURE_ABANDON taken: the removed order's image, the orders left, and the SESSION record's
number where one was written (R108, R110; log 8). The orders left are counted after the last step of the removal, those that the closing
wait appended in it included: the model's choice, since the rule does not say at which step (log 8). -/
def State.removalAnswer (s : State) (head : Order) (rest : List Order) (outcome : AuthOutcome) : Response :=
  .okWith (head.bytes ++ be1 (s.removeHead head rest outcome).captureQueue.length ++
    be2 (if s.logsOnRemoval head outcome then s.logNext else 0))

/-- CAPTURE_RESULT (R108). -/
def takeCaptureResult (f : CaptureResultFields) (s : State) : Taken :=
  match readResult f.outcome with
  | none => s.refuse .badValue
  | some outcome =>
    match s.captureQueue with
    | [] => s.refuse .notFound
    | head :: rest =>
      if head.reference ≠ f.reference then s.refuse .notFound
      else
        ((s.latchIf (outcome == .failed) .captureFailed).removeHead head rest outcome, s.removalAnswer head rest outcome)

def onCaptureResult (link : Link) (body : Body CaptureResultFields) (s : State) : State :=
  s.request link 0x23 .payment body takeCaptureResult

/-- CAPTURE_RESULT. -/
def execCaptureResult (link : Link) (body : Body CaptureResultFields) (s : State) : Host.Outcome State Fault Refusal :=
  done (onCaptureResult link body s)

/-- The answer of CAPTURE_HEAD (R109): an empty queue has no order and no age, which hold 0 (R179; log 11). -/
def State.captureHeadBody (s : State) : List Byte :=
  (match s.captureQueue with
    | [] => List.replicate 10 0 ++ be1 0 ++ be2 0
    | head :: _ => head.bytes ++ be1 s.captureQueue.length ++ be2 s.headAge) ++
  be1 s.closingWait.length ++ s.closingWait.flatMap (fun st => be1 st.val)

def takeCaptureHead (_ : Unit) (s : State) : Taken := s.answer s.captureHeadBody

def onCaptureHead (link : Link) (body : Body Unit) (s : State) : State :=
  s.request link 0x51 .management body takeCaptureHead

/-- CAPTURE_HEAD. -/
def execCaptureHead (link : Link) (body : Body Unit) (s : State) : Host.Outcome State Fault Refusal :=
  done (onCaptureHead link body s)

/-- CAPTURE_ABANDON (R110): the head's station and reference must both match; a station code above 7 is no head's station. -/
def takeCaptureAbandon (f : CaptureAbandonFields) (s : State) : Taken :=
  match s.captureQueue with
  | [] => s.refuse .notFound
  | head :: rest =>
    if head.station.val ≠ f.station.toNat ∨ head.reference ≠ f.reference then s.refuse .notFound
    else (s.removeHead head rest .abandoned, s.removalAnswer head rest .abandoned)

def onCaptureAbandon (link : Link) (body : Body CaptureAbandonFields) (s : State) : State :=
  s.request link 0x52 .management body takeCaptureAbandon

/-- CAPTURE_ABANDON. -/
def execCaptureAbandon (link : Link) (body : Body CaptureAbandonFields) (s : State) : Host.Outcome State Fault Refusal :=
  done (onCaptureAbandon link body s)

end Sys2Proof.Machine
end

