-- ==== Sys2Proof/Machine/SettlementLog.lean ====
section
/-! DEFINITION. The log and meter requests (sections 7.3 and 7.4): LOG_READ, LOG_RELEASE, LOG_STATUS and METER_READ. -/

namespace Sys2Proof.Machine

/-! ### LOG_READ (R141) -/

/-- Take records from the head while they fit: at most `count` of them, and at most `room` bytes of images (R141). -/
def recordsThatFit : Nat → Nat → List LogRecord → List LogRecord
  | 0, _, _ => []
  | _ + 1, _, [] => []
  | count + 1, room, r :: rest =>
    if r.bytes.length ≤ room then r :: recordsThatFit count (room - r.bytes.length) rest else []

/-- The records one LOG_READ carries (R141). -/
def State.logHead (s : State) : List LogRecord := recordsThatFit Config.logReadRecords Config.logReadBytes s.log

/-- LOG_READ (R141). -/
def takeLogRead (_ : Unit) (s : State) : Taken :=
  if s.log.isEmpty then (s, .refuse .empty)
  else s.answer (be1 s.logHead.length ++ s.logHead.flatMap LogRecord.bytes)

def onLogRead (link : Link) (body : Body Unit) (s : State) : State := s.request link 0x58 .management body takeLogRead

/-- LOG_READ. -/
def execLogRead (link : Link) (body : Body Unit) (s : State) : Host.Outcome State Fault Refusal := done (onLogRead link body s)

/-! ### LOG_RELEASE (R142) -/

/-- The log after the record with a number, that record and all before it removed; none where no record holds the number (R142). -/
def releaseThrough (seq : Nat) : List LogRecord → Option (List LogRecord)
  | [] => none
  | r :: rest => if r.seq = seq then some rest else releaseThrough seq rest

/-- The number of the head record, 0 where the log is empty (R142). -/
def headSeq (log : List LogRecord) : Nat := codeOr0 (fun r : LogRecord => r.seq) log.head?

/-- The number of the tail record, 0 where the log is empty (R143). -/
def tailSeq (log : List LogRecord) : Nat := codeOr0 (fun r : LogRecord => r.seq) log.getLast?

/-- LOG_RELEASE (R142). The occupied count left takes two bytes, as in LOG_STATUS, though after a removal it is at most 255: the model's
choice (log 24). -/
def takeLogRelease (seq : Half) (s : State) : Taken :=
  match releaseThrough seq.toNat s.log with
  | none => s.refuse .notFound
  | some rest =>
    ({ s with log := rest }, .okWith (be2 (s.log.length - rest.length) ++ be2 rest.length ++ be2 (headSeq rest)))

def onLogRelease (link : Link) (body : Body Half) (s : State) : State := s.request link 0x59 .management body takeLogRelease

/-- LOG_RELEASE. -/
def execLogRelease (link : Link) (body : Body Half) (s : State) : Host.Outcome State Fault Refusal :=
  done (onLogRelease link body s)

/-! ### LOG_STATUS (R143) -/

/-- The number of runs not IDLE (R136). -/
def State.openRuns (s : State) : Nat := s.runs.toList.countP (fun r => r.job.isSome)

/-- The number of card sessions not NONE (R136). -/
def State.openSessions (s : State) : Nat := s.sessions.toList.countP (·.isSome)

/-- The answer of LOG_STATUS (R143). -/
def State.logStatusBody (s : State) : List Byte :=
  be2 s.log.length ++ be2 s.freeSpace ++ be1 s.reserved ++ be1 s.openRuns ++ be1 s.openSessions ++
    be2 (headSeq s.log) ++ be2 (tailSeq s.log) ++ be2 s.logNext ++
    be1 (memberBits [s.isLive .logNonempty, s.isLive .logQ1, s.isLive .logQ2, s.isLive .logQ3])

def takeLogStatus (_ : Unit) (s : State) : Taken := s.answer s.logStatusBody

def onLogStatus (link : Link) (body : Body Unit) (s : State) : State := s.request link 0x5A .management body takeLogStatus

/-- LOG_STATUS. -/
def execLogStatus (link : Link) (body : Body Unit) (s : State) : Host.Outcome State Fault Refusal :=
  done (onLogStatus link body s)

/-! ### METER_READ (R147) -/

/-- A station's twenty meters in order (R147). -/
def Meters.bytes (m : Meters) : List Byte :=
  m.kinds.toList.flatMap be4 ++ be4 m.duplex ++ be4 m.jam ++ be4 m.credited ++ be4 m.disputed

/-- METER_READ (R147). -/
def takeMeterRead (station : Byte) (s : State) : Taken :=
  match readStation station with
  | none => s.refuse .badValue
  | some st => s.answer (be1 st.val ++ s.meters[st].bytes)

def onMeterRead (link : Link) (body : Body Byte) (s : State) : State := s.request link 0x5B .management body takeMeterRead

/-- METER_READ. -/
def execMeterRead (link : Link) (body : Body Byte) (s : State) : Host.Outcome State Fault Refusal :=
  done (onMeterRead link body s)

end Sys2Proof.Machine
end

