-- ==== Sys2Proof/Machine/Console.lean ====
section
/-! DEFINITION. The attention, parameter and whole-part requests (Chapter 9): ATTN_EXCHANGE, SET_PARAM, GET_PARAM, IDENTIFY,
TEARDOWN and WARM_RESET. -/

namespace Sys2Proof.Machine

/-! ### ATTN_EXCHANGE (R170) -/

/-- ATTN_EXCHANGE (R170): answer both sets, then clear the latched events of the mask. -/
def takeAttnExchange (mask : Word) (s : State) : Taken :=
  ({ s with latched := s.latched &&& ~~~mask }, .okWith (be4 s.latched.toNat ++ be4 s.liveSet.toNat))

def onAttnExchange (link : Link) (body : Body Word) (s : State) : State :=
  s.request link 0x68 .management body takeAttnExchange

/-- ATTN_EXCHANGE. -/
def execAttnExchange (link : Link) (body : Body Word) (s : State) : Host.Outcome State Fault Refusal :=
  done (onAttnExchange link body s)

/-! ### The parameter table (R172 to R174) -/

/-- The parameters by name (R172). -/
inductive ParamName where
  | holdStep | interimInterval | jamAllowance | jamTimer | runIdle | cardIdle | referralTimeout | referralOpen | silence
  | captureStall
  | cardMap (entry : Tier)
  | routeMask | routeValue | attnMask | srqMask
  deriving DecidableEq, Repr

/-- The parameter with a number (R172). -/
def readParam (number : Byte) : Option ParamName :=
  match number.toNat with
  | 0x01 => some .holdStep
  | 0x02 => some .interimInterval
  | 0x03 => some .jamAllowance
  | 0x04 => some .jamTimer
  | 0x05 => some .runIdle
  | 0x06 => some .cardIdle
  | 0x07 => some .referralTimeout
  | 0x08 => some .referralOpen
  | 0x09 => some .silence
  | 0x0A => some .captureStall
  | 0x0B => some (.cardMap 0)
  | 0x0C => some (.cardMap 1)
  | 0x0D => some (.cardMap 2)
  | 0x0E => some (.cardMap 3)
  | 0x0F => some .routeMask
  | 0x10 => some .routeValue
  | 0x11 => some .attnMask
  | 0x12 => some .srqMask
  | _ => none

/-- The value a parameter holds, as a 32-bit value. -/
def Params.get (p : Params) : ParamName → Nat
  | .holdStep => p.holdStep
  | .interimInterval => p.interimInterval
  | .jamAllowance => p.jamAllowance
  | .jamTimer => p.jamTimer
  | .runIdle => p.runIdle
  | .cardIdle => p.cardIdle
  | .referralTimeout => p.referralTimeout
  | .referralOpen => p.referralOpen
  | .silence => p.silence
  | .captureStall => p.captureStall
  | .cardMap entry => p.cardMap[entry].val
  | .routeMask => p.routeMask.toNat
  | .routeValue => p.routeValue.toNat
  | .attnMask => p.attnMask.toNat
  | .srqMask => p.srqMask.toNat

/-- A value clamped to a range (R173). -/
def clampTo (low high v : Nat) : Nat := max low (min high v)

/-- A tier value clamped to 0 to 3. -/
def clampTier (v : Nat) : Tier := ⟨min 3 v, Nat.lt_succ_of_le (Nat.min_le_left 3 v)⟩

/-- The bits an attention mask keeps: 0 to 17 (R172, R173). -/
def attnBits : Word := 0x0003FFFF

/-- The parameters with a value stored, clamped to the parameter's range; the route parameters are stored as given (R173). -/
def Params.store (p : Params) (name : ParamName) (value : Word) : Params :=
  match name with
  | .holdStep => { p with holdStep := clampTo 1 10000 value.toNat }
  | .interimInterval => { p with interimInterval := clampTo 0 9999 value.toNat }
  | .jamAllowance => { p with jamAllowance := clampTo 0 255 value.toNat }
  | .jamTimer => { p with jamTimer := clampTo 10 3600 value.toNat }
  | .runIdle => { p with runIdle := clampTo 30 3600 value.toNat }
  | .cardIdle => { p with cardIdle := clampTo 30 1800 value.toNat }
  | .referralTimeout => { p with referralTimeout := clampTo 1 60 value.toNat }
  | .referralOpen => { p with referralOpen := clampTo 1 100000 value.toNat }
  | .silence => { p with silence := clampTo 2 60 value.toNat }
  | .captureStall => { p with captureStall := clampTo 10 600 value.toNat }
  | .cardMap entry => { p with cardMap := p.cardMap.set entry (clampTier value.toNat) }
  | .routeMask => { p with routeMask := value }
  | .routeValue => { p with routeValue := value }
  | .attnMask => { p with attnMask := value &&& attnBits }
  | .srqMask => { p with srqMask := value &&& attnBits }

/-- Whether a name is one of the two route parameters. -/
def ParamName.isRoute : ParamName → Bool
  | .routeMask => true
  | .routeValue => true
  | .holdStep => false
  | .interimInterval => false
  | .jamAllowance => false
  | .jamTimer => false
  | .runIdle => false
  | .cardIdle => false
  | .referralTimeout => false
  | .referralOpen => false
  | .silence => false
  | .captureStall => false
  | .cardMap _ => false
  | .attnMask => false
  | .srqMask => false

/-- The checks of R117 on a new route: it matches no house number, and it matches the number of every mirror in use. -/
def State.routeFits (s : State) (p : Params) : Bool :=
  s.house.all (fun r => !(routeMatches p.routeMask p.routeValue r.number)) &&
    s.mirrors.all (fun m => routeMatches p.routeMask p.routeValue m.number)

/-- The answer of SET_PARAM and GET_PARAM: the number and the value now stored (R173, R174). -/
def paramAnswer (number : Byte) (p : Params) (name : ParamName) : Response := .okWith ([number] ++ be4 (p.get name))

/-- SET_PARAM (R173, R117). -/
def takeSetParam (f : SetParamFields) (s : State) : Taken :=
  match readParam f.number with
  | none => s.refuse .badValue
  | some name =>
    if name.isRoute = true ∧ s.routeFits (s.params.store name f.value) = false then s.refuse .conflict
    else ({ s with params := s.params.store name f.value }, paramAnswer f.number (s.params.store name f.value) name)

def onSetParam (link : Link) (body : Body SetParamFields) (s : State) : State :=
  s.request link 0x69 .management body takeSetParam

/-- SET_PARAM. -/
def execSetParam (link : Link) (body : Body SetParamFields) (s : State) : Host.Outcome State Fault Refusal :=
  done (onSetParam link body s)

/-- GET_PARAM (R174). -/
def takeGetParam (number : Byte) (s : State) : Taken :=
  match readParam number with
  | none => s.refuse .badValue
  | some name => (s, paramAnswer number s.params name)

def onGetParam (link : Link) (body : Body Byte) (s : State) : State := s.request link 0x6A .management body takeGetParam

/-- GET_PARAM. -/
def execGetParam (link : Link) (body : Body Byte) (s : State) : Host.Outcome State Fault Refusal :=
  done (onGetParam link body s)

/-! ### IDENTIFY (R175) -/

/-- The answer of IDENTIFY (R175). -/
def State.identity (s : State) : List Byte :=
  be2 Config.vendorCode ++ be2 Config.partCode ++ be1 Config.revision ++ be1 s.resetCause.code ++ be4 s.uptime

def takeIdentify (_ : Unit) (s : State) : Taken := s.answer s.identity

def onIdentify (link : Link) (body : Body Unit) (s : State) : State := s.request link 0x6B .management body takeIdentify

/-- IDENTIFY. -/
def execIdentify (link : Link) (body : Body Unit) (s : State) : Host.Outcome State Fault Refusal :=
  done (onIdentify link body s)

/-! ### TEARDOWN (R176) -/

/-- The stations in turn, 0 to 7 (R105, R176). -/
def allStations : List Station := [0, 1, 2, 3, 4, 5, 6, 7]

/-- A station's run in a teardown: a charging run closes TEARDOWN, a REFERRAL run is cancelled (R176, step 1). -/
def State.teardownRun (s : State) (st : Station) : State :=
  match s.job st with
  | none => s
  | some j => if j.state = .referral then s.returnJob st j .cancelled else s.closeJob st j .teardown

/-- A station's OPEN session in a teardown is moved toward capture (R105; R176, step 2). -/
def State.teardownSession (s : State) (st : Station) : State :=
  match s.sessions[st] with
  | none => s
  | some x => if x.state = .opened then s.leaveOpen st x else s

/-- The two passes of a teardown (R176). -/
def State.teardown (s : State) : State :=
  allStations.foldl State.teardownSession (allStations.foldl State.teardownRun s)

/-- Whether a station's run is in REFERRAL. -/
def State.inReferral (s : State) (st : Station) : Bool := (s.job st).any (fun j => j.state == .referral)

/-- Whether a station's run is in a charging state (R43). -/
def State.charging (s : State) (st : Station) : Bool := (s.job st).any (fun j => j.state != .referral)

/-- The runs a teardown closes and cancels, and the sessions it moves (R176). -/
def State.chargingRuns (s : State) : Nat := allStations.countP (fun st => s.charging st)
def State.referralRuns (s : State) : Nat := allStations.countP (fun st => s.inReferral st)
def State.sessionsOpen (s : State) : Nat := allStations.countP (fun st => s.sessionOpen st)

/-- The numbers of the first and last of `n` records appended from a counter value, both 0 for none (R133, R176). -/
def firstSeqOf (counter n : Nat) : Nat := if n = 0 then 0 else counter
def lastSeqOf (counter : Nat) : Nat → Nat
  | 0 => 0
  | 1 => counter
  | n + 1 => lastSeqOf (step16 counter) n

/-- The answer of TEARDOWN (R176). -/
def State.teardownBody (s : State) : List Byte :=
  be1 s.chargingRuns ++ be1 s.referralRuns ++ be1 s.sessionsOpen ++
    be2 (firstSeqOf s.logNext s.chargingRuns) ++ be2 (lastSeqOf s.logNext s.chargingRuns)

def takeTeardown (_ : Unit) (s : State) : Taken := (s.teardown, .okWith s.teardownBody)

def onTeardown (link : Link) (body : Body Unit) (s : State) : State := s.request link 0x6C .management body takeTeardown

/-- TEARDOWN. -/
def execTeardown (link : Link) (body : Body Unit) (s : State) : Host.Outcome State Fault Refusal :=
  done (onTeardown link body s)

/-! ### WARM_RESET (R177) -/

/-- Whether any work is open (R177). -/
def State.workOpen (s : State) : Bool :=
  s.openRuns != 0 || s.openSessions != 0 || !s.referrals.isEmpty || !s.captureQueue.isEmpty

/-- A station record after a warm reset: OFF, PRESENT, its silence timer stopped, its flags kept (R167). -/
def StationRecord.warm (r : StationRecord) : StationRecord := { StationRecord.reset with flags := r.flags }

/-- The links after a warm reset: counters, flags, receivers and the last-violation record as after power-on; responses already
formed on the UART links are kept (R167). -/
def Io.warm (io : Io) : Io := { Io.reset with cOut := io.cOut, pOut := io.pOut }

/-- The part after a warm reset (R177): what is not named here is kept. -/
def State.warmReset (s : State) : State :=
  { s with
    stations := s.stations.map StationRecord.warm
    runs := Vector.replicate 8 (Run.idle .none)
    paths := Vector.replicate 8 []
    jamTimers := Vector.replicate 8 none
    lostTimers := Vector.replicate 8 none
    closingWait := []
    stallTimer := none
    headAge := 0
    latched := 0
    io := s.io.warm
    resetCause := .warm
    uptime := 0 }

/-- WARM_RESET (R177). -/
def takeWarmReset (_ : Unit) (s : State) : Taken :=
  if s.workOpen then s.refuse .busy else (s.warmReset, .okWith [])

def onWarmReset (link : Link) (body : Body Unit) (s : State) : State := s.request link 0x6D .management body takeWarmReset

/-- WARM_RESET. -/
def execWarmReset (link : Link) (body : Body Unit) (s : State) : Host.Outcome State Fault Refusal :=
  done (onWarmReset link body s)

end Sys2Proof.Machine
end

