-- ==== Sys2Proof/Machine/Prices.lean ====
section
/-! DEFINITION. The price requests (section 2.2): PRICE_WRITE, PRICE_READ and PRICE_SWAP. -/

namespace Sys2Proof.Machine

/-! ### PRICE_WRITE (R27, R28) -/

/-- An item of a PRICE_WRITE with its values (section 2.2). -/
inductive PriceItem where
  | base (start : Nat) (values : List Nat)
  | back (percent : Nat)
  | breaks (v1 v2 v3 v4 : Break)
  deriving DecidableEq, Repr

/-- Two-byte values; none where a byte is left over. -/
def readValues : List Byte → Option (List Nat)
  | [] => some []
  | [_] => none
  | hi :: lo :: rest => (readValues rest).map (fun vs => (half hi lo).toNat :: vs)

/-- Checks 1 to 3 of R27 on the item: its code, its length, its start kind and count, and its thresholds. -/
def readItem (item : Byte) (values : List Byte) : Option PriceItem :=
  if item = 1 then
    match values with
    | [] => none
    | start :: rest =>
      match readValues rest with
      | none => none
      | some vs =>
        if start.toNat ≤ 15 ∧ 1 ≤ vs.length ∧ start.toNat + vs.length ≤ 16 then some (.base start.toNat vs) else none
  else if item = 2 then
    match values with
    | [percent] => some (.back percent.toNat)
    | _ => none
  else if item = 3 then
    match readValues values with
    | some [t1, d1, t2, d2, t3, d3, t4, d4] =>
      if t1 ≤ 9999 ∧ t2 ≤ 9999 ∧ t3 ≤ 9999 ∧ t4 ≤ 9999 then some (.breaks ⟨t1, d1⟩ ⟨t2, d2⟩ ⟨t3, d3⟩ ⟨t4, d4⟩) else none
    | _ => none
  else none

/-- A discount above 1,000 is stored as 1,000 (R28). -/
def Break.clamp (v : Break) : Break := { v with discount := min 1000 v.discount }

/-- Store consecutive base prices from a sheet kind upward (R28). -/
def storeBase (base : Vector Nat 16) : Nat → List Nat → Vector Nat 16
  | _, [] => base
  | k, v :: rest => storeBase (base.setIfInBounds k v) (k + 1) rest

/-- The tier with an item stored, clamped (R28). -/
def TierPrices.store (t : TierPrices) : PriceItem → TierPrices
  | .base start values => { t with base := storeBase t.base start values }
  | .back percent => { t with back := min 100 percent }
  | .breaks v1 v2 v3 v4 => { t with breaks := #v[v1.clamp, v2.clamp, v3.clamp, v4.clamp] }

/-- The item as it now stands in the tier (R28; log 7). -/
def TierPrices.itemBytes (t : TierPrices) : PriceItem → List Byte
  | .base start values => be1 start ++ (List.range values.length).flatMap (fun i => be2 (t.base[start + i]?.getD 0))
  | .back _ => be1 t.back
  | .breaks _ _ _ _ => t.breaks.toList.flatMap (fun v => be2 v.threshold ++ be2 v.discount)

/-- Whether a bank may be written: not active, and with no users (R26, R27). -/
def State.writable (s : State) (name : BankName) : Bool := s.active != some name && (s.bank name).users == 0

/-- The bank with an item stored in one tier; any write sets its generation to 0 (R28). -/
def Bank.store (bank : Bank) (tier : Tier) (item : PriceItem) : Bank :=
  { bank with tiers := bank.tiers.set tier (bank.tiers[tier].store item), generation := 0 }

/-- PRICE_WRITE (R27, R28). -/
def takePriceWrite (f : PriceWriteFields) (s : State) : Taken :=
  match readBank f.bank, readTier f.tier, readItem f.item f.values with
  | some name, some tier, some item =>
    if s.writable name = false then s.refuse .bankBusy
    else
      (s.setBank name ((s.bank name).store tier item),
        .okWith (((s.bank name).tiers[tier].store item).itemBytes item))
  | _, _, _ => s.refuse .badValue

def onPriceWrite (link : Link) (body : Body PriceWriteFields) (s : State) : State :=
  s.request link 0x48 .management (bodyIf (fun f => priceWriteLengthOk f.values.length) body) takePriceWrite

/-- PRICE_WRITE. -/
def execPriceWrite (link : Link) (body : Body PriceWriteFields) (s : State) : Host.Outcome State Fault Refusal :=
  done (onPriceWrite link body s)

/-! ### PRICE_READ (R29) -/

/-- The role code of a bank: NONE while the active pointer is NONE (R29). -/
def State.roleCode (s : State) (name : BankName) : Nat :=
  match s.active with
  | none => 0
  | some active => if active = name then 1 else 2

/-- The answer of PRICE_READ (R29). -/
def State.priceBody (s : State) (name : BankName) (tier : Tier) : List Byte :=
  be1 (s.roleCode name) ++ be2 (s.bank name).generation ++ be1 (s.bank name).users ++ be2 s.genCounter ++
    (s.bank name).tiers[tier].base.toList.flatMap be2 ++ be1 (s.bank name).tiers[tier].back ++
    (s.bank name).tiers[tier].breaks.toList.flatMap (fun v => be2 v.threshold ++ be2 v.discount)

/-- PRICE_READ (R29). -/
def takePriceRead (f : PriceReadFields) (s : State) : Taken :=
  match readBank f.bank, readTier f.tier with
  | some name, some tier => s.answer (s.priceBody name tier)
  | _, _ => s.refuse .badValue

def onPriceRead (link : Link) (body : Body PriceReadFields) (s : State) : State :=
  s.request link 0x49 .management body takePriceRead

/-- PRICE_READ. -/
def execPriceRead (link : Link) (body : Body PriceReadFields) (s : State) : Host.Outcome State Fault Refusal :=
  done (onPriceRead link body s)

/-! ### PRICE_SWAP (R30, R31) -/

/-- Make a bank active: the generation counter steps, the new value is stamped on the bank, the pointer moves, and a SWAP record is
written (R31). -/
def State.swapTo (s : State) (name : BankName) : State :=
  let generation := step16 s.genCounter
  { s.setBank name { s.bank name with generation := generation } with genCounter := generation, active := some name }
    |>.append (.swap name generation)

/-- PRICE_SWAP (R30, R31). -/
def takePriceSwap (bank : Byte) (s : State) : Taken :=
  match readBank bank with
  | none => s.refuse .badValue
  | some name =>
    if s.active = some name then s.refuse .sameBank
    else if s.admits = false then s.refuse .logFull
    else (s.swapTo name, .okWith (be1 name.code ++ be2 (step16 s.genCounter) ++ be2 s.logNext))

def onPriceSwap (link : Link) (body : Body Byte) (s : State) : State := s.request link 0x4A .management body takePriceSwap

/-- PRICE_SWAP. -/
def execPriceSwap (link : Link) (body : Body Byte) (s : State) : Host.Outcome State Fault Refusal :=
  done (onPriceSwap link body s)

end Sys2Proof.Machine
end

