-- ==== Sys2Proof/Machine/Referrals.lean ====
section
/-! DEFINITION. The referral requests (section 6.4): REFERRAL_FETCH, REFERRAL_LIST and REFERRAL_REPLY. -/

namespace Sys2Proof.Machine

/-! ### REFERRAL_FETCH and REFERRAL_LIST (R123, R124) -/

/-- Mark a referral FETCHED (R123). -/
def State.markFetched (s : State) (id : Nat) : State :=
  { s with referrals := s.referrals.map (fun r => if r.id = id then { r with state := .fetched } else r) }

/-- For a TOPUP, REFERRAL_FETCH appends the mirror's balance, held total and run list length (R123). -/
def State.topupBytes (s : State) (r : Referral) : List Byte :=
  if r.kind = .topup then
    match s.creditOf .mirror r.account with
    | none => be4 0 ++ be4 0 ++ be1 0
    | some c => be4s c.balance ++ be4 c.held ++ be1 c.runList.length
  else []

/-- The oldest WAITING referral (R123). -/
def State.oldestWaiting (s : State) : Option Referral := s.referrals.find? (fun r => r.state == .waiting)

/-- REFERRAL_FETCH (R123); the image carries the state as the fetch leaves it. -/
def takeReferralFetch (_ : Unit) (s : State) : Taken :=
  match s.oldestWaiting with
  | none => (s, .refuse .none)
  | some r => (s.markFetched r.id, .okWith ({ r with state := .fetched : Referral }.bytes ++ s.topupBytes r))

def onReferralFetch (link : Link) (body : Body Unit) (s : State) : State :=
  s.request link 0x53 .management body takeReferralFetch

/-- REFERRAL_FETCH. -/
def execReferralFetch (link : Link) (body : Body Unit) (s : State) : Host.Outcome State Fault Refusal :=
  done (onReferralFetch link body s)

/-- REFERRAL_LIST (R124). -/
def takeReferralList (_ : Unit) (s : State) : Taken :=
  s.answer (be1 s.referrals.length ++ s.referrals.flatMap Referral.bytes)

def onReferralList (link : Link) (body : Body Unit) (s : State) : State :=
  s.request link 0x54 .management body takeReferralList

/-- REFERRAL_LIST. -/
def execReferralList (link : Link) (body : Body Unit) (s : State) : Host.Outcome State Fault Refusal :=
  done (onReferralList link body s)

/-! ### REFERRAL_REPLY (R125 to R127) -/

/-- A decision as taken: a GRANT's amount and tier, or DENY (R125). -/
inductive Decision where
  | grant (amount : Nat) (tier : Tier)
  | deny
  deriving DecidableEq, Repr

def Decision.code : Decision → Nat
  | .grant _ _ => 1
  | .deny => 2

/-- Checks 1 and 2 of R125; a DENY's amount and tier are ignored. -/
def readDecision (f : ReferralReplyFields) : Option Decision :=
  if f.id = 0 then none
  else if f.decision = 1 then
    if f.amount.toNat = 0 ∨ Config.grantMax < f.amount.toNat then none else (readTier f.tier).map (.grant f.amount.toNat)
  else if f.decision = 2 then some .deny
  else none

/-- A mirror becomes ACTIVE with the granted balance and tier (R7, R126). -/
def State.activateMirror (s : State) (account : Word) (amount : Nat) (tier : Tier) : State :=
  { s with
    mirrors := s.mirrors.map (fun m =>
      if m.number = account then
        { m with state := .active, tier := tier, credit := { m.credit with balance := amount } }
      else m) }

/-- A REFERRAL run enters ACTIVE by its OPEN grant (R52). -/
def State.grantRun (s : State) (st : Station) (j : Job) (tier : Tier) : State :=
  s.setRun st ⟨some { j with state := .active, tier := tier, idleTimer := some s.params.runIdle }, .granted⟩

/-- A reply on an OPEN referral, the referral being out of the queue (R126). -/
def State.replyOpen (s : State) (r : Referral) (d : Decision) : State :=
  match s.job r.station with
  | none => s
  | some j =>
    match d with
    | .grant amount tier => (s.activateMirror r.account amount tier).grantRun r.station j tier
    | .deny => s.returnJob r.station j .denied

/-- A reply on a TOPUP referral, the referral being out of the queue (R127). -/
def State.replyTopup (s : State) (r : Referral) (d : Decision) : State :=
  match d with
  | .grant amount _ => s.mapCredit .mirror r.account (Credit.raise amount)
  | .deny => s

/-- What a reply does in the step that removes its referral (R126, R127). -/
def State.reply (s : State) (r : Referral) (d : Decision) : State :=
  match r.kind with
  | .opening => (s.removeReferral r.id).replyOpen r d
  | .topup => (s.removeReferral r.id).replyTopup r d

/-- The mirror's balance after a GRANT; 0 for a DENY (R125, R179). -/
def State.balanceAfter (s : State) (r : Referral) (d : Decision) : Int :=
  match d with
  | .grant _ _ => ((s.creditOf .mirror r.account).map (·.balance)).getD 0
  | .deny => 0

/-- REFERRAL_REPLY (R125). -/
def takeReferralReply (f : ReferralReplyFields) (s : State) : Taken :=
  match readDecision f with
  | none => s.refuse .badValue
  | some d =>
    match s.referrals.find? (fun r => r.id == f.id.toNat) with
    | none => s.refuse .tooLate
    | some r =>
      (s.reply r d,
        .okWith (be1 r.id ++ be1 r.kind.code ++ be1 r.station.val ++ be4 r.account.toNat ++ be1 d.code ++
          be4s ((s.reply r d).balanceAfter r d)))

def onReferralReply (link : Link) (body : Body ReferralReplyFields) (s : State) : State :=
  s.request link 0x55 .management body takeReferralReply

/-- REFERRAL_REPLY. -/
def execReferralReply (link : Link) (body : Body ReferralReplyFields) (s : State) : Host.Outcome State Fault Refusal :=
  done (onReferralReply link body s)

end Sys2Proof.Machine
end

