-- ==== Sys2Proof/Machine/Runs.lean ====
section
/-! DEFINITION. The run controller's requests (Chapter 3): LOAD, ADVANCE, QUERY, END_RUN and RUN_ABORT. -/

namespace Sys2Proof.Machine

/-! ### LOAD (R45 to R50) -/

/-- The job a LOAD opens: every count and amount 0 (R49, R50). -/
def State.newJob (s : State) (state : RunState) (account : Word) (slot : SlotKind) (tier : Tier) (bank : BankName)
    (template : Template) (idleTimer : Option Nat) : Job :=
  { state := state, account := account, slot := slot, tier := tier, bank := bank, generation := (s.bank bank).generation
    jamAllowance := s.params.jamAllowance, template := template, lastBurst := none
    charge := 0, settled := 0, hold := 0, granted := 0, delivered := 0, credited := 0, disputed := 0
    netMono := 0, netColour := 0, jams := 0, sinceInterim := 0, idleTimer := idleTimer }

/-- Open a run on a record that has credit: R49. -/
def State.openRun (s : State) (st : Station) (account : Word) (slot : SlotKind) (tier : Tier) (bank : BankName)
    (template : Template) : State :=
  s |>.setRun st ⟨some (s.newJob .active account slot tier bank template (some s.params.runIdle)), .none⟩
    |>.useBank bank
    |>.mapCredit slot account (Credit.join st)
    |>.reserve

/-- The answer of a LOAD that opened a run in ACTIVE (R49). -/
def State.loadAnswer (s : State) (account : Word) (slot : SlotKind) (tier : Tier) (bank : BankName) : Response :=
  .okWith (be1 RunState.active.code ++ be1 slot.code ++ be1 tier.val ++ be2 (s.bank bank).generation ++
    be4s (s.available slot account))

/-- A LOAD that succeeds into ACTIVE. -/
def State.loadOn (s : State) (st : Station) (account : Word) (slot : SlotKind) (tier : Tier) (bank : BankName)
    (template : Template) : Taken :=
  ((s.openRun st account slot tier bank template), (s.loadAnswer account slot tier bank))

/-- Put a mirror slot to use, PENDING, with the loading station (R7). -/
def State.addMirror (s : State) (account : Word) (st : Station) : State :=
  { s with mirrors := s.mirrors ++ [⟨account, .pending, 0, ⟨0, 0, [st]⟩⟩] }

/-- Open a run in REFERRAL on a remote number that no mirror holds: R50. -/
def State.openReferral (s : State) (st : Station) (account : Word) (bank : BankName) (template : Template) : State :=
  s |>.addMirror account st
    |>.createReferral .opening st account s.params.referralOpen
    |>.setRun st ⟨some (s.newJob .referral account .mirror 0 bank template none), .none⟩
    |>.useBank bank
    |>.reserve

/-- A LOAD that succeeds into REFERRAL, answered PENDING (R50). -/
def State.loadReferral (s : State) (st : Station) (account : Word) (bank : BankName) (template : Template) : Taken :=
  (s.openReferral st account bank template,
    ⟨.pending, be1 RunState.referral.code ++ be1 SlotKind.mirror.code ++ be2 (s.bank bank).generation ++
      be1 s.nextReferralId⟩)

/-- Resolution on the station's own card slot: number 0 (R46). -/
def State.loadCard (s : State) (st : Station) (bank : BankName) (template : Template) : Taken :=
  match s.sessions[st] with
  | none => s.refuse .noSession
  | some x =>
    if x.state ≠ .opened then s.refuse .noSession
    else if s.stations[st].flags.cardRuns = false then s.refuse .disabled
    else s.loadOn st (cardNumber st) .card x.tier bank template

/-- Resolution on a remote number (R47). -/
def State.loadRemote (s : State) (st : Station) (account : Word) (bank : BankName) (template : Template) : Taken :=
  if s.stations[st].flags.remoteRuns = false then s.refuse .disabled
  else
    match s.mirrorOf account with
    | some m => if m.state = .pending then s.refuse .busy else s.loadOn st account .mirror m.tier bank template
    | none =>
      if Config.mirrorCapacity ≤ s.mirrors.length then s.refuse .noSlot
      else s.loadReferral st account bank template

/-- Resolution on a house number (R48). -/
def State.loadHouse (s : State) (st : Station) (account : Word) (bank : BankName) (template : Template) : Taken :=
  if s.stations[st].flags.accountRuns = false then s.refuse .disabled
  else
    match s.houseRecord account with
    | none => s.refuse .notFound
    | some r =>
      if r.state = .frozen then s.refuse .frozen
      else if r.maxRuns ≠ 0 ∧ r.maxRuns ≤ r.credit.runList.length then s.refuse .accountBusy
      else s.loadOn st account .house r.tier bank template

/-- The account resolution of a LOAD (R46). -/
def State.resolveLoad (s : State) (st : Station) (account : Word) (bank : BankName) (template : Template) : Taken :=
  if account = 0 then s.loadCard st bank template
  else if isOrdinary account = false then s.refuse .badValue
  else if s.sessionOpen st then s.refuse .sessionOpen
  else if s.isRemote account then s.loadRemote st account bank template
  else s.loadHouse st account bank template

/-- Checks 3 to 6 of a LOAD (R45), the station being ENABLED. -/
def State.loadChecks (s : State) (st : Station) (account : Word) (template : Template) : Taken :=
  if s.runIdle st = false then s.refuse .busy
  else
    match s.active with
    | none => s.refuse .noPrices
    | some bank =>
      if s.admits = false then (s.latch .admissionRefused).refuse .logFull
      else s.resolveLoad st account bank template

/-- LOAD (R45): the template checks come before the station-state test (R160), and DRAINING answers DISABLED. -/
def takeLoad (st : Station) (f : LoadFields) (s : State) : Taken :=
  match readTemplate f with
  | none => s.refuse .badFormat
  | some template =>
    s.gate st (fun s =>
      if s.stations[st].state = .draining then s.refuse .disabled else s.loadChecks st f.account template)

def onLoad (link : Link) (body : Body LoadFields) (s : State) : State :=
  s.request link 0x01 .station body (takeLoad (stationOf link))

/-- LOAD. -/
def execLoad (link : Link) (body : Body LoadFields) (s : State) : Host.Outcome State Fault Refusal := done (onLoad link body s)

/-! ### ADVANCE (R54 to R59) -/

/-- One sheet of a burst: granted, or the reason it stops the burst and its shortfall. -/
inductive SheetOutcome where
  | granted (s : State)
  | stopped (why : StopReason) (shortfall : Nat)
  deriving DecidableEq, Repr

/-- The job after a sheet of price `d` is granted with `grown` units of new hold (R10, R57). -/
def Job.grant (j : Job) (mode : ColourMode) (d grown : Nat) : Job :=
  { j with
    charge := j.charge + d
    hold := j.hold + grown
    granted := j.granted + 1
    netMono := if mode = .mono then j.netMono + 1 else j.netMono
    netColour := if mode = .colour then j.netColour + 1 else j.netColour }

/-- Grant one sheet (R57). -/
def State.grantSheet (s : State) (st : Station) (j : Job) (k : SheetKind) (sides : Sides) (d grown : Nat) : State :=
  s |>.mapCredit j.slot j.account (Credit.grow grown)
    |>.setPath st (s.paths[st] ++ [⟨j.nextSeq, k, sides, d⟩])
    |>.setJob st (j.grant (kindMode k) d grown)

/-- The tests of R56 on the next sheet, in order. -/
def State.trySheet (s : State) (st : Station) (k : SheetKind) (sides : Sides) : SheetOutcome :=
  match s.job st with
  | none => .stopped .none 0
  | some j =>
    if Config.runLimit ≤ j.granted then .stopped .runLimit 0
    else if Config.pathCapacity ≤ s.paths[st].length then .stopped .pathFull 0
    else
      match s.coverFor j (s.priceFor j k sides) with
      | .covered grown => .granted (s.grantSheet st j k sides (s.priceFor j k sides) grown)
      | .short why x => .stopped why x

/-- How a burst ended: the state, the granted count g, the stop reason, and the shortfall of the sheet that stopped it. -/
structure BurstEnd where
  state : State
  granted : Nat
  stop : StopReason
  shortfall : Nat
  deriving DecidableEq, Repr

/-- Price, cover and grant up to `count` sheets, stopping at the first that fails (R56). -/
def State.burst (st : Station) (k : SheetKind) (sides : Sides) : Nat → State → BurstEnd
  | 0, s => ⟨s, 0, .none, 0⟩
  | count + 1, s =>
    match s.trySheet st k sides with
    | .granted s' =>
      let rest := State.burst st k sides count s'
      { rest with granted := rest.granted + 1 }
    | .stopped why x => ⟨s, 0, why, x⟩

/-- The run's state after a burst (R58). -/
def stateAfterBurst (before : RunState) (granted : Nat) (stop : StopReason) : RunState :=
  if granted ≠ 0 then .active
  else if stop = .noCredit ∨ stop = .frozen then .starved
  else before

/-- The job after a fresh burst: its last burst, its restarted idle timer and its state (R58). -/
def Job.endBurst (j : Job) (firstSeq granted : Nat) (stop : StopReason) (idle : Nat) : Job :=
  { j with
    state := stateAfterBurst j.state granted stop
    lastBurst := some ⟨firstSeq, granted, stop, j.hold, j.charge⟩
    idleTimer := some idle }

/-- A TOPUP is asked for by a mirror's burst stopped for NO_CREDIT, unless one waits for the mirror (R59, R122). -/
def State.askTopup (s : State) (st : Station) (j : Job) (stop : StopReason) (shortfall : Nat) : State :=
  if j.slot = .mirror ∧ stop = .noCredit ∧ s.topupWaits j.account = false then
    s.createReferral .topup st j.account (roundUp shortfall s.params.holdStep)
  else s

/-- A burst's answer (R58). -/
def Burst.answer (b : Burst) : Response :=
  .okWith (be2 b.firstSeq ++ be1 b.granted ++ be1 b.stop.code ++ be4 b.hold ++ be4 b.charge)

/-- End a fresh burst: answer it, set the run's state, and ask for a TOPUP where R59 does. -/
def State.endBurst (st : Station) (firstSeq : Nat) (e : BurstEnd) : Taken :=
  match e.state.job st with
  | none => e.state.refuse .noRun
  | some j =>
    ((e.state.setJob st (j.endBurst firstSeq e.granted e.stop e.state.params.runIdle)).askTopup st j e.stop e.shortfall,
      (Burst.answer ⟨firstSeq, e.granted, e.stop, j.hold, j.charge⟩))

/-- The count of an ADVANCE, clamped to 1 to 4 (R54). -/
def burstCount (count : Byte) : Nat := max 1 (min 4 count.toNat)

/-- The sheet kind and sides of a burst: the overrides, or the template where they are absent (R54). -/
def Overrides.kindFor (o : Overrides) (t : Template) : SheetKind := o.kind.getD (kindOf t.media t.colour)
def Overrides.sidesFor (o : Overrides) (t : Template) : Sides := o.sides.getD t.sides

/-- The burst whose answer an ADVANCE repeats: the same first seq, and one that granted a sheet (R55). -/
def Job.repeated (j : Job) (firstSeq : Nat) : Option Burst :=
  j.lastBurst.filter (fun b => b.firstSeq == firstSeq && b.granted != 0)

/-- The sequence check of an ADVANCE in ACTIVE or STARVED (R55). -/
def State.advanceRun (s : State) (st : Station) (j : Job) (f : AdvanceFields) (o : Overrides) : Taken :=
  if f.firstSeq.toNat = j.nextSeq then
    State.endBurst st j.nextSeq
      (State.burst st (o.kindFor j.template) (o.sidesFor j.template) (burstCount f.count) s)
  else
    match j.repeated f.firstSeq.toNat with
    | some b => (s, b.answer)
    | none => s.refuse .sequence

/-- The run-state test of an ADVANCE (R54). -/
def State.advanceChecks (s : State) (st : Station) (f : AdvanceFields) (o : Overrides) : Taken :=
  match s.job st with
  | none => s.refuse .noRun
  | some j =>
    match j.state with
    | .referral => s.refuse .referral
    | .jammed => s.refuse .jammed
    | .finishing => s.refuse .finishing
    | .active => s.advanceRun st j f o
    | .starved => s.advanceRun st j f o

/-- ADVANCE (R54): the override checks come before the station-state test (R160). -/
def takeAdvance (st : Station) (f : AdvanceFields) (s : State) : Taken :=
  match readOverrides f.overrides ⟨none, none⟩ with
  | none => s.refuse .badFormat
  | some o => s.gate st (fun s => s.advanceChecks st f o)

def onAdvance (link : Link) (body : Body AdvanceFields) (s : State) : State :=
  s.request link 0x02 .station (bodyIf (fun f => advanceLengthOk f.overrides) body) (takeAdvance (stationOf link))

/-- ADVANCE. -/
def execAdvance (link : Link) (body : Body AdvanceFields) (s : State) : Host.Outcome State Fault Refusal :=
  done (onAdvance link body s)

/-! ### QUERY (R60) -/

/-- The available credit of a run's account, as QUERY gives it: 0 in IDLE; 0 for a PENDING mirror by its balance (R60). -/
def State.runAvailable (s : State) (st : Station) : Int :=
  match s.job st with
  | none => 0
  | some j => s.available j.slot j.account

/-- The answer of QUERY (R60). -/
def State.queryBody (s : State) (st : Station) : List Byte :=
  be1 s.stations[st].state.code ++ be1 Presence.present.code ++ be1 (s.runCode st) ++
    be2 (codeOr0 Job.nextSeq (s.job st)) ++ be1 s.paths[st].length ++ be4 (codeOr0 (fun j : Job => j.hold) (s.job st)) ++
    be4s (s.runAvailable st) ++ be1 (codeOr0 (fun j : Job => j.jams) (s.job st)) ++ be1 s.runs[st].lastOutcome.code ++
    be1 (s.sessionCode st) ++ be4s (s.cardBalance st)

def takeQuery (st : Station) (_ : Unit) (s : State) : Taken := s.gate st (fun s => s.answer (s.queryBody st))

def onQuery (link : Link) (body : Body Unit) (s : State) : State :=
  s.request link 0x03 .station body (takeQuery (stationOf link))

/-- QUERY. -/
def execQuery (link : Link) (body : Body Unit) (s : State) : Host.Outcome State Fault Refusal := done (onQuery link body s)

/-! ### END_RUN and RUN_ABORT (R61, R63) -/

/-- What a close reports: T_final and the number its RUN_CLOSE record takes (R67). -/
def State.closingOf (s : State) (j : Job) : Closing := ⟨j.finalDebit, s.logNext⟩

/-- The answer of END_RUN and RUN_ABORT: the run state, the final debit and the RUN_CLOSE number (R61, R63). -/
def State.endAnswer (s : State) (st : Station) (c : Closing) : Response := .okWith (be1 (s.runCode st) ++ c.bytes)

/-- Close a run on request. -/
def State.closeOnRequest (s : State) (st : Station) (j : Job) (reason : CloseReason) : Taken :=
  (s.closeJob st j reason, (s.closeJob st j reason).endAnswer st (s.closingOf j))

/-- Cancel a run in REFERRAL on request. -/
def State.cancelOnRequest (s : State) (st : Station) (j : Job) : Taken :=
  (s.returnJob st j .cancelled, (s.returnJob st j .cancelled).endAnswer st .none)

/-- END_RUN in ACTIVE or STARVED (R61). -/
def State.endActive (s : State) (st : Station) (j : Job) : Taken :=
  if s.paths[st].isEmpty then s.closeOnRequest st j .normal
  else (s.setJob st { j with state := .finishing }, (s.setJob st { j with state := .finishing }).endAnswer st .none)

/-- END_RUN past the station-state test (R61). -/
def State.endRun (s : State) (st : Station) : Taken :=
  match s.job st with
  | none => (s, s.endAnswer st .none)
  | some j =>
    match j.state with
    | .active => s.endActive st j
    | .starved => s.endActive st j
    | .jammed => s.closeOnRequest st j .normal
    | .finishing => (s, s.endAnswer st .none)
    | .referral => s.cancelOnRequest st j

def takeEndRun (st : Station) (_ : Unit) (s : State) : Taken := s.gate st (fun s => s.endRun st)

def onEndRun (link : Link) (body : Body Unit) (s : State) : State :=
  s.request link 0x04 .station body (takeEndRun (stationOf link))

/-- END_RUN. -/
def execEndRun (link : Link) (body : Body Unit) (s : State) : Host.Outcome State Fault Refusal := done (onEndRun link body s)

/-- RUN_ABORT (R63): taken in every station state. -/
def takeRunAbort (station : Byte) (s : State) : Taken :=
  match readStation station with
  | none => s.refuse .badValue
  | some st =>
    match s.job st with
    | none => s.refuse .noRun
    | some j => if j.state = .referral then s.cancelOnRequest st j else s.closeOnRequest st j .console

def onRunAbort (link : Link) (body : Body Byte) (s : State) : State := s.request link 0x50 .management body takeRunAbort

/-- RUN_ABORT. -/
def execRunAbort (link : Link) (body : Body Byte) (s : State) : Host.Outcome State Fault Refusal :=
  done (onRunAbort link body s)

end Sys2Proof.Machine
end

