-- ==== Sys2Proof/Machine/SheetPath.lean ====
section
/-! DEFINITION. The sheet path tracker's requests (Chapter 4): DELIVERED, JAM and CLEAR. -/

namespace Sys2Proof.Machine

/-! ### DELIVERED (R75 to R79) -/

/-- Close a FINISHING run whose list a delivery left empty (R62). -/
def State.finishIfEmpty (s : State) (st : Station) : State × Closing :=
  match s.job st with
  | none => (s, .none)
  | some j =>
    if j.state = .finishing ∧ s.paths[st].isEmpty then (s.closeJob st j .normal, s.closingOf j) else (s, .none)

/-- The answer of DELIVERED (R79): the run's delivered count is given as it stood before a close cleared it (log 10). -/
def State.deliveredAnswer (s : State) (st : Station) (n delivered : Nat) (i : InterimResult) (c : Closing) : Response :=
  .okWith (be1 n ++ be1 s.paths[st].length ++ be2 delivered ++ be1 (s.runCode st) ++ i.bytes ++ c.bytes)

/-- A DELIVERED that delivers `n` sheets, one or more: the delivery, the idle timer, the interim trigger, and the close of a FINISHING
run (R62, R76 to R78). -/
def State.deliverSheets (s : State) (st : Station) (j : Job) (n : Nat) : Taken :=
  let s₁ := (s.deliver st n).restartIdle st
  let s₂ := (s₁.interim st).1
  let s₃ := (s₂.finishIfEmpty st).1
  (s₃, s₃.deliveredAnswer st n (j.delivered + n) (s₁.interim st).2 (s₂.finishIfEmpty st).2)

/-- DELIVERED in ACTIVE, STARVED and FINISHING (R77): a seq below the head delivers nothing and changes nothing. -/
def State.deliverUpTo (s : State) (st : Station) (j : Job) (seq : Nat) : Taken :=
  if deliverable s.paths[st] seq = 0 then (s, s.deliveredAnswer st 0 j.delivered .none .none)
  else s.deliverSheets st j (deliverable s.paths[st] seq)

/-- DELIVERED past the station-state test (R75). -/
def State.delivered (s : State) (st : Station) (seq : Nat) : Taken :=
  match s.job st with
  | none => s.refuse .noRun
  | some j =>
    match j.state with
    | .referral => s.refuse .noRun
    | .jammed => (s, s.deliveredAnswer st 0 j.delivered .none .none)
    | .active => s.deliverUpTo st j seq
    | .starved => s.deliverUpTo st j seq
    | .finishing => s.deliverUpTo st j seq

def takeDelivered (st : Station) (seq : Half) (s : State) : Taken := s.gate st (fun s => s.delivered st seq.toNat)

def onDelivered (link : Link) (body : Body Half) (s : State) : State :=
  s.request link 0x05 .station body (takeDelivered (stationOf link))

/-- DELIVERED. -/
def execDelivered (link : Link) (body : Body Half) (s : State) : Host.Outcome State Fault Refusal :=
  done (onDelivered link body s)

/-! ### JAM (R80 to R85) -/

/-- One lost sheet: credited back while the captured allowance lasts, disputed otherwise (R82). -/
def Job.lose (j : Job) (e : PathEntry) : Job :=
  if j.credited < j.jamAllowance then
    { j with
      charge := j.charge - e.price
      credited := j.credited + 1
      netMono := if kindMode e.kind = .mono then j.netMono - 1 else j.netMono
      netColour := if kindMode e.kind = .colour then j.netColour - 1 else j.netColour }
  else { j with disputed := j.disputed + 1 }

/-- The lost sheets, taken oldest first (R82). -/
def Job.loseAll (j : Job) (lost : List PathEntry) : Job := lost.foldl Job.lose j

/-- The jams count, stopping at 255 (R83). -/
def jamsUp (n : Nat) : Nat := if Config.jamsStop ≤ n then Config.jamsStop else n + 1

/-- What every JAM taken does: the jams count, the jam meter, the JAM event and the idle timer (R83, steps 1 to 4; R85). -/
def State.countJam (s : State) (st : Station) (j : Job) : State :=
  s |>.setJob st { j with jams := jamsUp j.jams, idleTimer := some s.params.runIdle }
    |>.setMeters st s.meters[st].countJam
    |>.latch .jam

/-- Lose the sheets still on the list, and count the jam (R82, R83). -/
def State.loseSheets (s : State) (st : Station) (j : Job) : State :=
  (s.setPath st []).countJam st (j.loseAll s.paths[st])

/-- Enter JAMMED, the jam timer starting (R83, step 5; R87). -/
def State.enterJammed (s : State) (st : Station) (j : Job) : State :=
  (s.setJob st { j with state := .jammed }).setJamTimer st (some s.params.jamTimer)

/-- What a JAM's answer reports (R83). -/
structure JamReport where
  reached : Nat
  recovered : Nat
  credited : Nat
  disputed : Nat
  interim : InterimResult
  charge : Nat
  nextSeq : Nat
  jams : Nat
  closing : Closing
  deriving DecidableEq, Repr

/-- The answer of JAM (R83): A, next seq and the jams count are given as the jam left them, before a close cleared them (log 10). -/
def State.jamAnswer (s : State) (st : Station) (r : JamReport) : Response :=
  .okWith (be1 r.reached ++ be1 r.recovered ++ be1 r.credited ++ be1 r.disputed ++ r.interim.bytes ++ be4 r.charge ++
    be2 r.nextSeq ++ be1 r.jams ++ be1 (s.runCode st) ++ r.closing.bytes)

/-- After the losses: JAMMED from ACTIVE or STARVED, the NORMAL close from FINISHING (R83, step 5). -/
def State.endJam (s : State) (st : Station) (j : Job) : State × Closing :=
  if j.state = .finishing then (s.closeJob st j .normal, s.closingOf j) else (s.enterJammed st j, .none)

/-- Bring out `n` sheets in a JAM and test the interim trigger where any was brought out (R81). -/
def State.bringOut (s : State) (st : Station) (n : Nat) : State × InterimResult :=
  if n = 0 then (s, .none) else (s.deliver st n).interim st

/-- The job the brought-out sheets left; the run is open, so there is one. -/
def State.jobOr (s : State) (st : Station) (j : Job) : Job := (s.job st).getD j

/-- A JAM in ACTIVE, STARVED or FINISHING (R81 to R83). -/
def State.jamRun (s : State) (st : Station) (j : Job) (last recovered : Nat) : Taken :=
  let reached := deliverable s.paths[st] last
  let more := min recovered (s.paths[st].length - reached)
  let s₁ := (s.bringOut st (reached + more)).1
  let j₁ := s₁.jobOr st j
  let s₂ := s₁.loseSheets st j₁
  let j₂ := s₂.jobOr st j₁
  let ended := s₂.endJam st j₂
  (ended.1,
    ended.1.jamAnswer st
      { reached := reached, recovered := more, credited := j₂.credited - j₁.credited, disputed := j₂.disputed - j₁.disputed
        interim := (s.bringOut st (reached + more)).2, charge := j₂.charge, nextSeq := j₂.nextSeq, jams := j₂.jams
        closing := ended.2 })

/-- A further JAM in JAMMED (R85): counted; the jam timer runs on. -/
def State.jamAgain (s : State) (st : Station) (j : Job) : Taken :=
  let s₁ := s.countJam st j
  (s₁,
    s₁.jamAnswer st
      { reached := 0, recovered := 0, credited := 0, disputed := 0, interim := .none, charge := j.charge
        nextSeq := j.nextSeq, jams := jamsUp j.jams, closing := .none })

/-- JAM past the station-state test (R80). -/
def State.jam (s : State) (st : Station) (last recovered : Nat) : Taken :=
  match s.job st with
  | none => s.refuse .noRun
  | some j =>
    match j.state with
    | .referral => s.refuse .noRun
    | .jammed => s.jamAgain st j
    | .active => s.jamRun st j last recovered
    | .starved => s.jamRun st j last recovered
    | .finishing => s.jamRun st j last recovered

def takeJam (st : Station) (f : JamFields) (s : State) : Taken :=
  s.gate st (fun s => s.jam st f.lastDelivered.toNat f.recovered.toNat)

def onJam (link : Link) (body : Body JamFields) (s : State) : State :=
  s.request link 0x06 .station body (takeJam (stationOf link))

/-- JAM. -/
def execJam (link : Link) (body : Body JamFields) (s : State) : Host.Outcome State Fault Refusal := done (onJam link body s)

/-! ### CLEAR (R86) -/

/-- CLEAR in JAMMED: the jam timer stops, the run is ACTIVE and its idle timer restarts (R86). -/
def State.clearJam (s : State) (st : Station) (j : Job) : State :=
  (s.setJob st { j with state := .active, idleTimer := some s.params.runIdle }).setJamTimer st none

/-- CLEAR past the station-state test: H, A and next seq are carried where it moved the run, and 0 otherwise (R86, R179; log 11). -/
def State.clear (s : State) (st : Station) : Taken :=
  match s.job st with
  | none => s.answer (be1 (s.runCode st) ++ be4 0 ++ be4 0 ++ be2 0)
  | some j =>
    if j.state = .jammed then
      (s.clearJam st j,
        .okWith (be1 RunState.active.code ++ be4 j.hold ++ be4 j.charge ++ be2 j.nextSeq))
    else s.answer (be1 (s.runCode st) ++ be4 0 ++ be4 0 ++ be2 0)

def takeClear (st : Station) (_ : Unit) (s : State) : Taken := s.gate st (fun s => s.clear st)

def onClear (link : Link) (body : Body Unit) (s : State) : State :=
  s.request link 0x07 .station body (takeClear (stationOf link))

/-- CLEAR. -/
def execClear (link : Link) (body : Body Unit) (s : State) : Host.Outcome State Fault Refusal := done (onClear link body s)

end Sys2Proof.Machine
end

