-- ==== Sys2Proof/Machine/Stations.lean ====
section
/-! DEFINITION. The link and station requests of the console (Chapter 8): LINK_STATS, the six actions of STATION_SET, and
STATION_READ. -/

namespace Sys2Proof.Machine

/-! ### LINK_STATS (R158) -/

/-- The last-violation record as LINK_STATS carries it: its link as a request address, and its code; 0 where empty (log 16). -/
def violationBytes : Option Violation → List Byte
  | none => be1 0 ++ be1 0
  | some v => [v.link.address, v.code]

/-- The counters of a link, and the last-violation record, as they stand (R158). -/
def State.linkBody (s : State) (link : Link) : List Byte :=
  be2 (s.port link).accepted ++ be2 (s.port link).refused ++ be2 (s.port link).discarded ++
    violationBytes s.io.lastViolation

/-- Clear a link's counters, arm it, and empty the last-violation record (R158). -/
def State.clearLink (s : State) (link : Link) : State :=
  (s.setPort link { s.port link with accepted := 0, refused := 0, discarded := 0, armed := true }).setViolation none

/-- LINK_STATS (R158). -/
def takeLinkStats (f : LinkStatsFields) (s : State) : Taken :=
  match readLink f.link with
  | none => s.refuse .badValue
  | some link => (if f.clear ≠ 0 then s.clearLink link else s, .okWith (s.linkBody link))

def onLinkStats (link : Link) (body : Body LinkStatsFields) (s : State) : State :=
  s.request link 0x60 .management body takeLinkStats

/-- LINK_STATS. -/
def execLinkStats (link : Link) (body : Body LinkStatsFields) (s : State) : Host.Outcome State Fault Refusal :=
  done (onLinkStats link body s)

/-! ### STATION_SET (R161, R162) -/

/-- A station record with the flags part applied, where there is one (R161). -/
def StationRecord.withFlags (r : StationRecord) (flags : Option Byte) : StationRecord :=
  { r with flags := (flags.map readFlags).getD r.flags }

/-- The answer of STATION_SET: state, prior state, flags and presence after the request (R161). -/
def State.stationAnswer (s : State) (st : Station) : Response :=
  .okWith (be1 s.stations[st].state.code ++ be1 (codeOr0 PriorState.code s.stations[st].prior) ++
    be1 s.stations[st].flags.bits ++ be1 s.stations[st].presence.code)

/-- Store a station record and answer with it. -/
def State.stationSet (s : State) (st : Station) (r : StationRecord) : Taken :=
  (s.setStation st r, (s.setStation st r).stationAnswer st)

/-- Action NONE needs a flags part; an action code outside the six is refused alike (R161; log 14). -/
def takeStationSetNone (f : StationSetNoneFields) (s : State) : Taken :=
  match readStation f.station with
  | none => s.refuse .badValue
  | some st =>
    if f.action ≠ 0 ∨ f.flags = none then s.refuse .badValue
    else s.stationSet st (s.stations[st].withFlags f.flags)

/-- Action ENABLE (R161): from OFF the silence timer starts at its full value. -/
def State.enable (s : State) (st : Station) (flags : Option Byte) : Taken :=
  match s.stations[st].state with
  | .off =>
    s.stationSet st { s.stations[st].withFlags flags with state := .enabled, silence := some s.params.silence }
  | .draining => s.stationSet st { s.stations[st].withFlags flags with state := .enabled }
  | .enabled => s.refuse .state
  | .held => s.refuse .state

/-- Action DISABLE (R161). -/
def State.disable (s : State) (st : Station) (flags : Option Byte) : Taken :=
  match s.stations[st].state with
  | .enabled =>
    if s.runIdle st = true ∧ s.sessionOpen st = false then
      s.stationSet st { s.stations[st].withFlags flags with state := .off, silence := none }
    else s.stationSet st { s.stations[st].withFlags flags with state := .draining }
  | .off => s.refuse .state
  | .draining => s.refuse .state
  | .held => s.refuse .state

/-- Action HOLD (R161): the state it left is the prior state; the timers freeze by R163. -/
def State.hold (s : State) (st : Station) (flags : Option Byte) : Taken :=
  match s.stations[st].state with
  | .enabled => s.stationSet st { s.stations[st].withFlags flags with state := .held, prior := some .enabled }
  | .draining => s.stationSet st { s.stations[st].withFlags flags with state := .held, prior := some .draining }
  | .off => s.refuse .state
  | .held => s.refuse .state

/-- The state a HELD station returns to; a HELD station always has a prior state (log 13). -/
def stateOfPrior : Option PriorState → StationState
  | some .draining => .draining
  | some .enabled => .enabled
  | none => .enabled

/-- Action RELEASE (R161): the prior state, tested for drain completion at once (R162). -/
def State.release (s : State) (st : Station) (flags : Option Byte) : Taken :=
  match s.stations[st].state with
  | .held =>
    let s' := (s.setStation st
      { s.stations[st].withFlags flags with state := stateOfPrior s.stations[st].prior, prior := none }).drainTest st
    (s', s'.stationAnswer st)
  | .off => s.refuse .state
  | .enabled => s.refuse .state
  | .draining => s.refuse .state

/-- OFF where the run is IDLE and the session NONE; refused BUSY otherwise (R161). -/
def State.turnOffWhenFree (s : State) (st : Station) (flags : Option Byte) : Taken :=
  if s.runIdle st = true ∧ s.sessions[st] = none then
    s.stationSet st { s.stations[st].withFlags flags with state := .off, prior := none, silence := none }
  else s.refuse .busy

/-- Action OFF (R161). -/
def State.turnOff (s : State) (st : Station) (flags : Option Byte) : Taken :=
  match s.stations[st].state with
  | .off => s.refuse .state
  | .enabled => s.turnOffWhenFree st flags
  | .draining => s.turnOffWhenFree st flags
  | .held => s.turnOffWhenFree st flags

/-- A STATION_SET whose action is the row's own: the station is read first (R161). -/
def takeAction (action : State → Station → Option Byte → Taken) (f : StationSetFields) (s : State) : Taken :=
  match readStation f.station with
  | none => s.refuse .badValue
  | some st => action s st f.flags

def onStationSetNone (link : Link) (body : Body StationSetNoneFields) (s : State) : State :=
  s.request link 0x61 .management body takeStationSetNone
def onStationSetEnable (link : Link) (body : Body StationSetFields) (s : State) : State :=
  s.request link 0x61 .management body (takeAction State.enable)
def onStationSetDisable (link : Link) (body : Body StationSetFields) (s : State) : State :=
  s.request link 0x61 .management body (takeAction State.disable)
def onStationSetHold (link : Link) (body : Body StationSetFields) (s : State) : State :=
  s.request link 0x61 .management body (takeAction State.hold)
def onStationSetRelease (link : Link) (body : Body StationSetFields) (s : State) : State :=
  s.request link 0x61 .management body (takeAction State.release)
def onStationSetOff (link : Link) (body : Body StationSetFields) (s : State) : State :=
  s.request link 0x61 .management body (takeAction State.turnOff)

/-- STATION_SET with action NONE. -/
def execStationSetNone (link : Link) (body : Body StationSetNoneFields) (s : State) : Host.Outcome State Fault Refusal :=
  done (onStationSetNone link body s)
/-- STATION_SET ENABLE. -/
def execStationSetEnable (link : Link) (body : Body StationSetFields) (s : State) : Host.Outcome State Fault Refusal :=
  done (onStationSetEnable link body s)
/-- STATION_SET DISABLE. -/
def execStationSetDisable (link : Link) (body : Body StationSetFields) (s : State) : Host.Outcome State Fault Refusal :=
  done (onStationSetDisable link body s)
/-- STATION_SET HOLD. -/
def execStationSetHold (link : Link) (body : Body StationSetFields) (s : State) : Host.Outcome State Fault Refusal :=
  done (onStationSetHold link body s)
/-- STATION_SET RELEASE. -/
def execStationSetRelease (link : Link) (body : Body StationSetFields) (s : State) : Host.Outcome State Fault Refusal :=
  done (onStationSetRelease link body s)
/-- STATION_SET OFF. -/
def execStationSetOff (link : Link) (body : Body StationSetFields) (s : State) : Host.Outcome State Fault Refusal :=
  done (onStationSetOff link body s)

/-! ### STATION_READ (R165) -/

/-- The station record part: state, prior state, flags, presence, silence timer. -/
def State.readRecord (s : State) (st : Station) : List Byte :=
  be1 s.stations[st].state.code ++ be1 (codeOr0 PriorState.code s.stations[st].prior) ++ be1 s.stations[st].flags.bits ++
    be1 s.stations[st].presence.code ++ be2 (secondsLeft s.stations[st].silence)

/-- The last burst's fields, all 0 where it is absent. -/
def burstBytes : Option Burst → List Byte
  | none => be2 0 ++ be1 0 ++ be1 0 ++ be4 0 ++ be4 0
  | some b => be2 b.firstSeq ++ be1 b.granted ++ be1 b.stop.code ++ be4 b.hold ++ be4 b.charge

/-- The fields of an open run's context, in the order of R42. -/
def Job.contextBytes (j : Job) : List Byte :=
  be1 j.state.code ++ be4 j.account.toNat ++ be1 j.slot.code ++ be1 j.tier.val ++ be1 j.bank.code ++ be2 j.generation ++
    be1 j.jamAllowance ++ be1 j.template.media.val ++ be1 j.template.colour.code ++ be1 j.template.sides.code ++
    be2 j.nextSeq ++ burstBytes j.lastBurst ++ be4 j.charge ++ be4 j.settled ++ be4 j.hold ++
    be2 j.granted ++ be2 j.delivered ++ be2 j.credited ++ be2 j.disputed ++ be2 j.netMono ++ be2 j.netColour ++
    be1 j.jams ++ be2 j.sinceInterim ++ be2 (secondsLeft j.idleTimer)

/-- The run context part: every field of R42, with the in-path count and the in-path charge; an IDLE run's fields read 0 (R42,
R165; log 9). -/
def State.readRun (s : State) (st : Station) : List Byte :=
  (match s.job st with
    | none => List.replicate 57 0
    | some j => j.contextBytes) ++
  be1 s.runs[st].lastOutcome.code ++ be1 s.paths[st].length ++ be4 (pathCharge s.paths[st])

/-- A timer with its mark: the mark is set where the timer is frozen, which a stopped timer is not. -/
def timerBytes (t : Option Nat) (frozen : Bool) : List Byte := be2 (secondsLeft t) ++ be1 (flag (t.isSome && frozen))

/-- The run timers part (R165). -/
def State.readTimers (s : State) (st : Station) : List Byte :=
  timerBytes ((s.job st).bind (·.idleTimer)) (s.runIdleFrozen st) ++ timerBytes s.jamTimers[st] (s.jamFrozen st) ++
    timerBytes s.lostTimers[st] (s.lostFrozen st)

/-- The answer of STATION_READ (R165). -/
def State.stationBody (s : State) (st : Station) : List Byte :=
  s.readRecord st ++ s.readRun st ++ s.readTimers st ++ be1 (s.sessionCode st) ++ be4s (s.cardBalance st)

/-- STATION_READ (R165). -/
def takeStationRead (station : Byte) (s : State) : Taken :=
  match readStation station with
  | none => s.refuse .badValue
  | some st => s.answer (s.stationBody st)

def onStationRead (link : Link) (body : Body Byte) (s : State) : State :=
  s.request link 0x62 .management body takeStationRead

/-- STATION_READ. -/
def execStationRead (link : Link) (body : Body Byte) (s : State) : Host.Outcome State Fault Refusal :=
  done (onStationRead link body s)

end Sys2Proof.Machine
end

