-- ==== Sys2Proof/Machine/Receiver.lean ====
section
/-! DEFINITION. The receivers of the links (R150 to R154) and the rows of line activity: INVALID_REQUEST_CODE, FRAME_DISCARDED,
RECEIVE_GAP_TIMEOUT, SELECT_RELEASED and RESPONSE_CLOCKED_OUT. -/

namespace Sys2Proof.Machine

/-! ### A request code the part does not have (R156, check 1) -/

/-- A valid frame whose code is no request code: refused BAD_FORMAT by the port. The code itself has no further part in it. -/
def onInvalidRequestCode (link : Link) (_code : Byte) (s : State) : State :=
  if s.deaf link then s else (s.validFrame link).refuseFormat link

/-- INVALID_REQUEST_CODE. -/
def execInvalidRequestCode (link : Link) (code : Byte) (s : State) : Host.Outcome State Fault Refusal :=
  done (onInvalidRequestCode link code s)

/-! ### One byte at a receiver (R153) -/

/-- What a byte brings about at its receiver. -/
inductive Received where
  | nothing
  | discard
  | frame (code : Byte) (body : List Byte)
  deriving DecidableEq, Repr

/-- The test of a whole frame at its last check byte: address, length, code, body and check of the bytes after the start byte. It is
valid where the check and the address are right (R152 to R154). -/
def testFrame (link : Link) (address length code : Byte) (body check : List Byte) : Received :=
  if check = be2 (crc16 (address :: length :: code :: body)).toNat ∧ address = link.address then .frame code body
  else .discard

/-- The receiver after the bytes collected so far: a body length above 120 is a fault, and the last check byte ends the frame
(R153). -/
def collect (link : Link) (collected : List Byte) : Receiver × Received :=
  match collected with
  | address :: length :: rest =>
    if Config.bodyMax < length.toNat then (.skip, .discard)
    else if rest.length = length.toNat + 3 then
      match rest with
      | code :: tail => (.hunt, testFrame link address length code (tail.take length.toNat) (tail.drop length.toNat))
      | [] => (.hunt, .discard)
    else (.receive collected, .nothing)
  | _ => (.receive collected, .nothing)

/-- Whether a byte has a framing fault; the M-link has no stop bits (log 15). -/
def faultyOn (x : LineByte) (link : Link) : Bool := x.faulty && link != .m

/-- A receiver's move at one byte (R153). -/
def receiveByte (link : Link) (r : Receiver) (x : LineByte) : Receiver × Received :=
  match r with
  | .skip => (.skip, .nothing)
  | .hunt =>
    if x.value = startByte ∧ faultyOn x link = false then (.receive [], .nothing)
    else if link = .m then (.hunt, .nothing)
    else (.skip, .discard)
  | .receive collected =>
    if faultyOn x link then (.skip, .discard) else collect link (collected ++ [x.value])

/-! ### The waiting response under the bytes clocked in (R151) -/

/-- The byte on the M-link's data-out line, clocked out while the next byte is clocked in: 0x00 while no response waits; while one
waits, the byte of its frame after those already clocked out (R151; log 23). -/
def State.dataOut (s : State) : Byte :=
  match s.io.mWaiting with
  | none => 0x00
  | some r => (r.bytes .m).getD s.io.mSent 0x00

/-- A byte clocked on the M-link: a start byte discards a waiting response; any other byte is filler and clocks one byte of it out,
the last of which ends it. -/
def State.clockByte (s : State) (x : Byte) : State :=
  match s.io.mWaiting with
  | none => s
  | some r =>
    if x = startByte then s.dropResponse
    else if (r.bytes .m).length ≤ s.io.mSent + 1 then s.dropResponse
    else { s with io := { s.io with mSent := s.io.mSent + 1 } }

/-! ### Bytes heard on a link -/

/-- The request a valid frame carries, taken by its own meaning; the rows that are no requests are spelled by no frame. -/
def takeRequest (i : Instr) (s : State) : State :=
  match i with
  | .load link body => onLoad link body s
  | .advance link body => onAdvance link body s
  | .query link body => onQuery link body s
  | .endRun link body => onEndRun link body s
  | .delivered link body => onDelivered link body s
  | .jam link body => onJam link body s
  | .clear link body => onClear link body s
  | .endSession link body => onEndSession link body s
  | .authNotice link body => onAuthNotice link body s
  | .sessionQuery link body => onSessionQuery link body s
  | .poll link body => onPoll link body s
  | .captureResult link body => onCaptureResult link body s
  | .acctCreate link body => onAcctCreate link body s
  | .acctUpdate link body => onAcctUpdate link body s
  | .acctRead link body => onAcctRead link body s
  | .acctNext link body => onAcctNext link body s
  | .acctDelete link body => onAcctDelete link body s
  | .priceWrite link body => onPriceWrite link body s
  | .priceRead link body => onPriceRead link body s
  | .priceSwap link body => onPriceSwap link body s
  | .runAbort link body => onRunAbort link body s
  | .captureHead link body => onCaptureHead link body s
  | .captureAbandon link body => onCaptureAbandon link body s
  | .referralFetch link body => onReferralFetch link body s
  | .referralList link body => onReferralList link body s
  | .referralReply link body => onReferralReply link body s
  | .logRead link body => onLogRead link body s
  | .logRelease link body => onLogRelease link body s
  | .logStatus link body => onLogStatus link body s
  | .meterRead link body => onMeterRead link body s
  | .linkStats link body => onLinkStats link body s
  | .stationSetNone link body => onStationSetNone link body s
  | .stationSetEnable link body => onStationSetEnable link body s
  | .stationSetDisable link body => onStationSetDisable link body s
  | .stationSetHold link body => onStationSetHold link body s
  | .stationSetRelease link body => onStationSetRelease link body s
  | .stationSetOff link body => onStationSetOff link body s
  | .stationRead link body => onStationRead link body s
  | .attnExchange link body => onAttnExchange link body s
  | .setParam link body => onSetParam link body s
  | .getParam link body => onGetParam link body s
  | .identify link body => onIdentify link body s
  | .teardown link body => onTeardown link body s
  | .warmReset link body => onWarmReset link body s
  | .invalidRequestCode link code => onInvalidRequestCode link code s
  | .frameDiscarded _ _ => s
  | .receiveGapTimeout _ => s
  | .selectReleased => s
  | .powerOn => s
  | .resetPin => s
  | .timebaseTick => s
  | .runIdleTimerExpiry _ => s
  | .jamTimerExpiry _ => s
  | .lostTimerExpiry _ => s
  | .silenceTimerExpiry _ => s
  | .cardIdleTimerExpiry _ => s
  | .referralTimeout _ => s
  | .captureStallTimingExpiry => s
  | .responseClockedOut => s

/-- What the port does with what its receiver made of a byte: nothing, a counted discard, or a valid frame handed on (R153). -/
def State.received (s : State) (link : Link) : Received → State
  | .nothing => s
  | .discard => s.noteDiscard link
  | .frame code body => takeRequest (decodeRequest link code body) s

/-- One byte heard on a link (R151, R153). -/
def State.hearByte (link : Link) (s : State) (x : LineByte) : State :=
  let s₁ := if link = .m then s.clockByte x.value else s
  let r := receiveByte link (s₁.port link).receiver x
  (s₁.setReceiver link r.1).received link r.2

/-- The bytes clocked out on the M-link while bytes are clocked in, one for each (R151). -/
def State.clockedOut (s : State) : List LineByte → List Byte
  | [] => []
  | x :: rest => s.dataOut :: (State.hearByte .m s x).clockedOut rest

/-- The bytes heard on a link, one after another. A frame with a wrong check, a wrong address, an oversize length or a faulty byte is
discarded and counted; a valid frame standing among them is taken (R153; log 2). -/
def onFrameDiscarded (link : Link) (heard : List LineByte) (s : State) : State := heard.foldl (State.hearByte link) s

/-- FRAME_DISCARDED. -/
def execFrameDiscarded (link : Link) (heard : List LineByte) (s : State) : Host.Outcome State Fault Refusal :=
  done (onFrameDiscarded link heard s)

/-! ### Quiet lines (R151, R153) -/

/-- The line has fallen quiet: a partial frame is discarded and counted, and a skipping receiver hunts again (R153). -/
def State.lineQuiet (s : State) (link : Link) : State :=
  match (s.port link).receiver with
  | .hunt => s
  | .receive _ => (s.setReceiver link .hunt).noteDiscard link
  | .skip => s.setReceiver link .hunt

def onReceiveGapTimeout (link : Link) (s : State) : State := s.lineQuiet link

/-- RECEIVE_GAP_TIMEOUT: more than 5 ms with no byte. -/
def execReceiveGapTimeout (link : Link) (s : State) : Host.Outcome State Fault Refusal := done (onReceiveGapTimeout link s)

/-- Select released: the M-link falls quiet, and a response not clocked out to its last byte is sent again from its first (R151). -/
def onSelectReleased (s : State) : State :=
  let s₁ := s.lineQuiet .m
  { s₁ with io := { s₁.io with mSent := 0 } }

/-- SELECT_RELEASED. -/
def execSelectReleased (s : State) : Host.Outcome State Fault Refusal := done (onSelectReleased s)

/-- RESPONSE_CLOCKED_OUT: the last byte of the waiting response is clocked out, READY goes low, the response is gone (R151). -/
def execResponseClockedOut (s : State) : Host.Outcome State Fault Refusal := done s.dropResponse

/-! ### Sending on the UART links (R150) -/

/-- Each UART port sends the oldest of its responses whole; the step of an empty queue does this (log 4). -/
def State.transmit (s : State) : State :=
  { s with io := { s.io with cOut := s.io.cOut.map (·.drop 1), pOut := s.io.pOut.drop 1 } }

end Sys2Proof.Machine
end

