-- ==== Sys2Proof/Machine/Timers.lean ====
section
/-! DEFINITION. Time and resets: TIMEBASE_TICK, the expiry rows, POWER_ON and RESET_PIN. A tick counts down every timer that is
neither stopped nor frozen; an expiry acts on a timer that has counted down to its end and is not frozen, and otherwise there is
nothing to expire (00_scope.md, "Timers"; log 3). -/

namespace Sys2Proof.Machine

/-! ### TIMEBASE_TICK -/

/-- A timer after one second of the timebase; a frozen timer keeps its remaining time. -/
def tickTimer (frozen : Bool) (t : Option Nat) : Option Nat := if frozen then t else t.map (· - 1)

/-- A run context after one second: its idle timer (R64). -/
def State.tickRun (s : State) (st : Station) : Run :=
  { s.runs[st] with
    job := s.runs[st].job.map (fun j => { j with idleTimer := tickTimer (s.runIdleFrozen st) j.idleTimer }) }

/-- A session after one second: its card idle timer (R100). -/
def State.tickSession (s : State) (st : Station) : Option Session :=
  s.sessions[st].map (fun x => { x with idleTimer := tickTimer (s.cardIdleFrozen st) x.idleTimer })

/-- A station record after one second: its silence timer, frozen in HELD (R163, R164). -/
def State.tickStation (s : State) (st : Station) : StationRecord :=
  { s.stations[st] with silence := tickTimer (s.isHeld st) s.stations[st].silence }

/-- A second of the timebase: every timer, the head's age and the seconds since the last reset (R64, R87, R89, R100, R111, R128,
R163, R164, R175). -/
def onTimebaseTick (s : State) : State :=
  { s with
    runs := Vector.ofFn s.tickRun
    jamTimers := Vector.ofFn (fun st : Station => tickTimer (s.jamFrozen st) s.jamTimers[st])
    lostTimers := Vector.ofFn (fun st : Station => tickTimer (s.lostFrozen st) s.lostTimers[st])
    sessions := Vector.ofFn s.tickSession
    stations := Vector.ofFn s.tickStation
    referrals := s.referrals.map (fun r => { r with timeout := r.timeout - 1 })
    stallTimer := s.stallTimer.map (· - 1)
    headAge := if s.captureQueue.isEmpty then s.headAge else min Config.counterStop (s.headAge + 1)
    uptime := min Config.uptimeStop (s.uptime + 1) }

/-- TIMEBASE_TICK. -/
def execTimebaseTick (s : State) : Host.Outcome State Fault Refusal := done (onTimebaseTick s)

/-! ### Expiries of a run's timers (R65, R88, R90) -/

/-- The run idle timer has run out: the run closes IDLE (R65). -/
def onRunIdleTimerExpiry (st : Station) (s : State) : State :=
  match s.job st with
  | none => s
  | some j => if timerDue j.idleTimer ∧ s.runIdleFrozen st = false then s.closeJob st j .idle else s

/-- RUN_IDLE_TIMER_EXPIRY. -/
def execRunIdleTimerExpiry (st : Station) (s : State) : Host.Outcome State Fault Refusal := done (onRunIdleTimerExpiry st s)

/-- The jam timer has run out: JAM_TIMEOUT is latched and the run closes JAM_TIMEOUT (R88). -/
def onJamTimerExpiry (st : Station) (s : State) : State :=
  match s.job st with
  | none => s
  | some j =>
    if timerDue s.jamTimers[st] ∧ s.jamFrozen st = false then (s.closeJob st j .jamTimeout).latch .jamTimeout else s

/-- JAM_TIMER_EXPIRY. -/
def execJamTimerExpiry (st : Station) (s : State) : Host.Outcome State Fault Refusal := done (onJamTimerExpiry st s)

/-- The lost timer has run out: the run closes LINK_LOST, or is cancelled in REFERRAL (R90). -/
def onLostTimerExpiry (st : Station) (s : State) : State :=
  match s.job st with
  | none => s
  | some j =>
    if timerDue s.lostTimers[st] ∧ s.lostFrozen st = false then
      if j.state = .referral then s.returnJob st j .cancelled else s.closeJob st j .linkLost
    else s

/-- LOST_TIMER_EXPIRY. -/
def execLostTimerExpiry (st : Station) (s : State) : Host.Outcome State Fault Refusal := done (onLostTimerExpiry st s)

/-! ### The silence timer (R164) -/

/-- The station record at a silence expiry: the timer stops, the station is SILENT. -/
def StationRecord.silenced (r : StationRecord) : StationRecord := { r with presence := .silent, silence := none }

/-- The silence timer has run out: a PRESENT station becomes SILENT, which latches STATION_SILENT and starts the lost timer where its
run is not IDLE; a SILENT one stays so and latches nothing (R89, R164). -/
def onSilenceTimerExpiry (st : Station) (s : State) : State :=
  if timerDue s.stations[st].silence ∧ s.isHeld st = false then
    { s with
      stations := s.stations.set st s.stations[st].silenced
      lostTimers := if s.isSilent st = false ∧ s.runIdle st = false then
          s.lostTimers.set st (some s.params.jamTimer)
        else s.lostTimers
      latched := if s.isSilent st then s.latched else s.latched ||| Event.stationSilent.mask }
  else s

/-- SILENCE_TIMER_EXPIRY. -/
def execSilenceTimerExpiry (st : Station) (s : State) : Host.Outcome State Fault Refusal := done (onSilenceTimerExpiry st s)

/-! ### The card session unit's timers (R101, R111) -/

/-- The card idle timer has run out: the OPEN session is closed as END_SESSION closes it (R101). -/
def onCardIdleTimerExpiry (st : Station) (s : State) : State :=
  match s.sessions[st] with
  | none => s
  | some x =>
    if x.state = .opened ∧ timerDue x.idleTimer ∧ s.cardIdleFrozen st = false then s.leaveOpen st x else s

/-- CARD_IDLE_TIMER_EXPIRY. -/
def execCardIdleTimerExpiry (st : Station) (s : State) : Host.Outcome State Fault Refusal := done (onCardIdleTimerExpiry st s)

/-- The capture stall timing has run out: CAPTURE_STALL is latched, and the timing stays stopped until the next head (R111). -/
def onCaptureStallTimingExpiry (s : State) : State :=
  if timerDue s.stallTimer then { s with stallTimer := none, latched := s.latched ||| Event.captureStall.mask } else s

/-- CAPTURE_STALL_TIMING_EXPIRY. -/
def execCaptureStallTimingExpiry (s : State) : Host.Outcome State Fault Refusal := done (onCaptureStallTimingExpiry s)

/-! ### Referral timeouts (R128) -/

/-- What a timeout does once its referral is removed: an OPEN one frees the mirror and returns the run to IDLE; a TOPUP changes
nothing more (R128). -/
def State.timeOut (s : State) (r : Referral) : State :=
  match r.kind with
  | .topup => s
  | .opening =>
    match s.job r.station with
    | none => s
    | some j => s.returnJob r.station j .timedOut

/-- The timeout of the referral with an id has run out (R128). -/
def onReferralTimeout (id : Nat) (s : State) : State :=
  match s.referrals.find? (fun r => r.id == id) with
  | none => s
  | some r => if r.timeout = 0 then (s.removeReferral id).timeOut r else s

/-- REFERRAL_TIMEOUT. -/
def execReferralTimeout (id : Nat) (s : State) : Host.Outcome State Fault Refusal := done (onReferralTimeout id s)

/-! ### Power-on and the reset pin (R178) -/

/-- Every block at its reset values; the commands still waiting stay waiting. -/
def State.resetBy (cause : ResetCause) (s : State) : State := { State.reset with resetCause := cause, pending := s.pending }

/-- POWER_ON. -/
def execPowerOn (s : State) : Host.Outcome State Fault Refusal := done (s.resetBy .powerOn)

/-- RESET_PIN: the same effect as power-on, but for the reset cause. -/
def execResetPin (s : State) : Host.Outcome State Fault Refusal := done (s.resetBy .resetPin)

end Sys2Proof.Machine
end

