-- ==== Sys2Proof/Machine/Dispatch.lean ====
section
/-! DEFINITION. The dispatch: one arm per command, each one call of the command's meaning. -/

namespace Sys2Proof.Machine

def exec (i : Instr) (s : State) : Host.Outcome State Fault Refusal :=
  match i with
  | .load link body => Sys2Proof.Machine.execLoad link body s
  | .advance link body => Sys2Proof.Machine.execAdvance link body s
  | .query link body => Sys2Proof.Machine.execQuery link body s
  | .endRun link body => Sys2Proof.Machine.execEndRun link body s
  | .delivered link body => Sys2Proof.Machine.execDelivered link body s
  | .jam link body => Sys2Proof.Machine.execJam link body s
  | .clear link body => Sys2Proof.Machine.execClear link body s
  | .endSession link body => Sys2Proof.Machine.execEndSession link body s
  | .authNotice link body => Sys2Proof.Machine.execAuthNotice link body s
  | .sessionQuery link body => Sys2Proof.Machine.execSessionQuery link body s
  | .poll link body => Sys2Proof.Machine.execPoll link body s
  | .captureResult link body => Sys2Proof.Machine.execCaptureResult link body s
  | .acctCreate link body => Sys2Proof.Machine.execAcctCreate link body s
  | .acctUpdate link body => Sys2Proof.Machine.execAcctUpdate link body s
  | .acctRead link body => Sys2Proof.Machine.execAcctRead link body s
  | .acctNext link body => Sys2Proof.Machine.execAcctNext link body s
  | .acctDelete link body => Sys2Proof.Machine.execAcctDelete link body s
  | .priceWrite link body => Sys2Proof.Machine.execPriceWrite link body s
  | .priceRead link body => Sys2Proof.Machine.execPriceRead link body s
  | .priceSwap link body => Sys2Proof.Machine.execPriceSwap link body s
  | .runAbort link body => Sys2Proof.Machine.execRunAbort link body s
  | .captureHead link body => Sys2Proof.Machine.execCaptureHead link body s
  | .captureAbandon link body => Sys2Proof.Machine.execCaptureAbandon link body s
  | .referralFetch link body => Sys2Proof.Machine.execReferralFetch link body s
  | .referralList link body => Sys2Proof.Machine.execReferralList link body s
  | .referralReply link body => Sys2Proof.Machine.execReferralReply link body s
  | .logRead link body => Sys2Proof.Machine.execLogRead link body s
  | .logRelease link body => Sys2Proof.Machine.execLogRelease link body s
  | .logStatus link body => Sys2Proof.Machine.execLogStatus link body s
  | .meterRead link body => Sys2Proof.Machine.execMeterRead link body s
  | .linkStats link body => Sys2Proof.Machine.execLinkStats link body s
  | .stationSetNone link body => Sys2Proof.Machine.execStationSetNone link body s
  | .stationSetEnable link body => Sys2Proof.Machine.execStationSetEnable link body s
  | .stationSetDisable link body => Sys2Proof.Machine.execStationSetDisable link body s
  | .stationSetHold link body => Sys2Proof.Machine.execStationSetHold link body s
  | .stationSetRelease link body => Sys2Proof.Machine.execStationSetRelease link body s
  | .stationSetOff link body => Sys2Proof.Machine.execStationSetOff link body s
  | .stationRead link body => Sys2Proof.Machine.execStationRead link body s
  | .attnExchange link body => Sys2Proof.Machine.execAttnExchange link body s
  | .setParam link body => Sys2Proof.Machine.execSetParam link body s
  | .getParam link body => Sys2Proof.Machine.execGetParam link body s
  | .identify link body => Sys2Proof.Machine.execIdentify link body s
  | .teardown link body => Sys2Proof.Machine.execTeardown link body s
  | .warmReset link body => Sys2Proof.Machine.execWarmReset link body s
  | .invalidRequestCode link code => Sys2Proof.Machine.execInvalidRequestCode link code s
  | .frameDiscarded link heard => Sys2Proof.Machine.execFrameDiscarded link heard s
  | .receiveGapTimeout link => Sys2Proof.Machine.execReceiveGapTimeout link s
  | .selectReleased => Sys2Proof.Machine.execSelectReleased s
  | .powerOn => Sys2Proof.Machine.execPowerOn s
  | .resetPin => Sys2Proof.Machine.execResetPin s
  | .timebaseTick => Sys2Proof.Machine.execTimebaseTick s
  | .runIdleTimerExpiry station => Sys2Proof.Machine.execRunIdleTimerExpiry station s
  | .jamTimerExpiry station => Sys2Proof.Machine.execJamTimerExpiry station s
  | .lostTimerExpiry station => Sys2Proof.Machine.execLostTimerExpiry station s
  | .silenceTimerExpiry station => Sys2Proof.Machine.execSilenceTimerExpiry station s
  | .cardIdleTimerExpiry station => Sys2Proof.Machine.execCardIdleTimerExpiry station s
  | .referralTimeout id => Sys2Proof.Machine.execReferralTimeout id s
  | .captureStallTimingExpiry => Sys2Proof.Machine.execCaptureStallTimingExpiry s
  | .responseClockedOut => Sys2Proof.Machine.execResponseClockedOut s

end Sys2Proof.Machine
end

