-- ==== Sys2Proof/Machine/Step.lean ====
section
/-! DEFINITION. One step of the block: the command at the front of the queue is taken whole; an empty queue lets the UART ports
send. -/

namespace Sys2Proof.Machine

/-- One step: `exec` of the command at the front of the queue, on the state with the queue's rest. On an empty queue each UART port
sends its oldest response (log 4). -/
def step (s : State) : Host.Outcome State Fault Refusal :=
  match s.pending with
  | [] => .next s.transmit
  | c :: rest => exec c { s with pending := rest }

/-- The command that a word spells by the opcode table's bits, put at the front of the queue; unchanged where it spells none, which is
every word, since no row of the table gives bits (log 6). -/
def State.withFetchWord (s : State) (nbits w : Nat) : State :=
  match decodeTableWord nbits w with
  | none => s
  | some c => { s with pending := c :: s.pending }

end Sys2Proof.Machine
end

