-- ==== Sys2Proof/Safety.lean ====
section
/-! DEFINITION. The terms the claims about the part use: what a request's frame shows its port, which body is malformed, and the
laws of the spec over a state (R72, R73, R119, R120, R136, R137). Nothing here changes a state. -/

namespace Sys2Proof

/-- What a request's frame shows its port: its link, its code, and the link kind the code belongs to (R155). -/
structure Header where
  link : Link
  code : Byte
  kind : LinkKind
  deriving DecidableEq, Repr

/-- The header of a request; none for the rows that are no requests of the part. -/
def Instr.header : Instr → Option Header
  | .load l _ => some ⟨l, 0x01, .station⟩
  | .advance l _ => some ⟨l, 0x02, .station⟩
  | .query l _ => some ⟨l, 0x03, .station⟩
  | .endRun l _ => some ⟨l, 0x04, .station⟩
  | .delivered l _ => some ⟨l, 0x05, .station⟩
  | .jam l _ => some ⟨l, 0x06, .station⟩
  | .clear l _ => some ⟨l, 0x07, .station⟩
  | .endSession l _ => some ⟨l, 0x08, .station⟩
  | .authNotice l _ => some ⟨l, 0x20, .payment⟩
  | .sessionQuery l _ => some ⟨l, 0x21, .payment⟩
  | .poll l _ => some ⟨l, 0x22, .payment⟩
  | .captureResult l _ => some ⟨l, 0x23, .payment⟩
  | .acctCreate l _ => some ⟨l, 0x40, .management⟩
  | .acctUpdate l _ => some ⟨l, 0x41, .management⟩
  | .acctRead l _ => some ⟨l, 0x42, .management⟩
  | .acctNext l _ => some ⟨l, 0x43, .management⟩
  | .acctDelete l _ => some ⟨l, 0x44, .management⟩
  | .priceWrite l _ => some ⟨l, 0x48, .management⟩
  | .priceRead l _ => some ⟨l, 0x49, .management⟩
  | .priceSwap l _ => some ⟨l, 0x4A, .management⟩
  | .runAbort l _ => some ⟨l, 0x50, .management⟩
  | .captureHead l _ => some ⟨l, 0x51, .management⟩
  | .captureAbandon l _ => some ⟨l, 0x52, .management⟩
  | .referralFetch l _ => some ⟨l, 0x53, .management⟩
  | .referralList l _ => some ⟨l, 0x54, .management⟩
  | .referralReply l _ => some ⟨l, 0x55, .management⟩
  | .logRead l _ => some ⟨l, 0x58, .management⟩
  | .logRelease l _ => some ⟨l, 0x59, .management⟩
  | .logStatus l _ => some ⟨l, 0x5A, .management⟩
  | .meterRead l _ => some ⟨l, 0x5B, .management⟩
  | .linkStats l _ => some ⟨l, 0x60, .management⟩
  | .stationSetNone l _ => some ⟨l, 0x61, .management⟩
  | .stationSetEnable l _ => some ⟨l, 0x61, .management⟩
  | .stationSetDisable l _ => some ⟨l, 0x61, .management⟩
  | .stationSetHold l _ => some ⟨l, 0x61, .management⟩
  | .stationSetRelease l _ => some ⟨l, 0x61, .management⟩
  | .stationSetOff l _ => some ⟨l, 0x61, .management⟩
  | .stationRead l _ => some ⟨l, 0x62, .management⟩
  | .attnExchange l _ => some ⟨l, 0x68, .management⟩
  | .setParam l _ => some ⟨l, 0x69, .management⟩
  | .getParam l _ => some ⟨l, 0x6A, .management⟩
  | .identify l _ => some ⟨l, 0x6B, .management⟩
  | .teardown l _ => some ⟨l, 0x6C, .management⟩
  | .warmReset l _ => some ⟨l, 0x6D, .management⟩
  | .invalidRequestCode _ _ => none
  | .frameDiscarded _ _ => none
  | .receiveGapTimeout _ => none
  | .selectReleased => none
  | .powerOn => none
  | .resetPin => none
  | .timebaseTick => none
  | .runIdleTimerExpiry _ => none
  | .jamTimerExpiry _ => none
  | .lostTimerExpiry _ => none
  | .silenceTimerExpiry _ => none
  | .cardIdleTimerExpiry _ => none
  | .referralTimeout _ => none
  | .captureStallTimingExpiry => none
  | .responseClockedOut => none

/-- Whether a body's length is none of its code's lengths (R156, check 3). -/
def Body.malformed {α : Type} : Body α → Bool
  | .of _ => false
  | .wrongLength => true

/-- Whether a request's body has a length that is none of its code's lengths (R156, check 3). -/
def Instr.malformed : Instr → Bool
  | .load _ b => b.malformed
  | .advance _ b => b.malformed
  | .query _ b => b.malformed
  | .endRun _ b => b.malformed
  | .delivered _ b => b.malformed
  | .jam _ b => b.malformed
  | .clear _ b => b.malformed
  | .endSession _ b => b.malformed
  | .authNotice _ b => b.malformed
  | .sessionQuery _ b => b.malformed
  | .poll _ b => b.malformed
  | .captureResult _ b => b.malformed
  | .acctCreate _ b => b.malformed
  | .acctUpdate _ b => b.malformed
  | .acctRead _ b => b.malformed
  | .acctNext _ b => b.malformed
  | .acctDelete _ b => b.malformed
  | .priceWrite _ b => b.malformed
  | .priceRead _ b => b.malformed
  | .priceSwap _ b => b.malformed
  | .runAbort _ b => b.malformed
  | .captureHead _ b => b.malformed
  | .captureAbandon _ b => b.malformed
  | .referralFetch _ b => b.malformed
  | .referralList _ b => b.malformed
  | .referralReply _ b => b.malformed
  | .logRead _ b => b.malformed
  | .logRelease _ b => b.malformed
  | .logStatus _ b => b.malformed
  | .meterRead _ b => b.malformed
  | .linkStats _ b => b.malformed
  | .stationSetNone _ b => b.malformed
  | .stationSetEnable _ b => b.malformed
  | .stationSetDisable _ b => b.malformed
  | .stationSetHold _ b => b.malformed
  | .stationSetRelease _ b => b.malformed
  | .stationSetOff _ b => b.malformed
  | .stationRead _ b => b.malformed
  | .attnExchange _ b => b.malformed
  | .setParam _ b => b.malformed
  | .getParam _ b => b.malformed
  | .identify _ b => b.malformed
  | .teardown _ b => b.malformed
  | .warmReset _ b => b.malformed
  | .invalidRequestCode _ _ => false
  | .frameDiscarded _ _ => false
  | .receiveGapTimeout _ => false
  | .selectReleased => false
  | .powerOn => false
  | .resetPin => false
  | .timebaseTick => false
  | .runIdleTimerExpiry _ => false
  | .jamTimerExpiry _ => false
  | .lostTimerExpiry _ => false
  | .silenceTimerExpiry _ => false
  | .cardIdleTimerExpiry _ => false
  | .referralTimeout _ => false
  | .captureStallTimingExpiry => false
  | .responseClockedOut => false

/-- Whether a command sets the whole part to its reset values (R178). -/
def Instr.resets : Instr → Bool
  | .powerOn => true
  | .resetPin => true
  | _ => false

/-- Whether a command is raw line activity, which may carry whole frames of its own (R153; log 2). -/
def Instr.isLineActivity : Instr → Bool
  | .frameDiscarded _ _ => true
  | _ => false

namespace Machine

/-- A station whose requests reach their blocks: ENABLED or DRAINING (R160). -/
def State.serves (s : State) (st : Station) : Prop :=
  s.stations[st].state = .enabled ∨ s.stations[st].state = .draining

/-- `n` sheets of one kind, granted one after another, lead from one state to another (R56, R57). -/
def State.grants (s : State) (st : Station) (k : SheetKind) (sides : Sides) : Nat → State → Prop
  | 0, t => t = s
  | n + 1, t => ∃ u, s.trySheet st k sides = .granted u ∧ u.grants st k sides n t

/-- The law of the log: the reserved count is the number of open runs and of sessions not NONE (R136), and with the occupied count
never exceeds 256 (R137). -/
def State.LogLaw (s : State) : Prop :=
  s.reserved = s.openRuns + s.openSessions ∧ s.log.length + s.reserved ≤ Config.logCapacity

/-- The law of an open run and its in-path list. -/
structure Job.Law (j : Job) (path : List PathEntry) : Prop where
  /-- At most 16 entries (R72). -/
  room : path.length ≤ Config.pathCapacity
  /-- In rising seq (R72). -/
  rising : path.Pairwise (fun a b => a.seq < b.seq)
  /-- Every entry was granted by this run (R72). -/
  ours : ∀ e ∈ path, 1 ≤ e.seq ∧ e.seq ≤ j.granted
  /-- A run grants at most 9,999 sheets (R56). -/
  limit : j.granted ≤ Config.runLimit
  /-- Every granted sheet is delivered, credited, disputed or in the path (R73). -/
  fates : j.granted = j.delivered + j.credited + j.disputed + path.length
  /-- Credited sheets stay within the captured jam allowance (R73). -/
  allowance : j.credited ≤ j.jamAllowance
  /-- The list of a JAMMED run is empty (R43). -/
  jammed : j.state = .jammed → path = []
  /-- A run in REFERRAL has granted nothing and holds nothing (R38, R51, R72). -/
  referral : j.state = .referral → path = [] ∧ j.granted = 0 ∧ j.charge = 0 ∧ j.settled = 0 ∧ j.hold = 0
  /-- A − P is at least 100 × S_int (R39). -/
  settledBound : pathCharge path + 100 * j.settled ≤ j.charge
  /-- H is at least A in units rounded up, less S_int (R38). -/
  covered : (j.charge + 99) / 100 ≤ j.hold + j.settled

/-- The law of a station's run and in-path list; the list of an IDLE run is empty (R72). -/
def State.RunLaw (s : State) (st : Station) : Prop :=
  match s.job st with
  | none => s.paths[st] = []
  | some j => j.Law s.paths[st]

/-- The law of the referral queue: one referral at most per station (R119), no id twice (R120), and each referral serves the run it
was created for: an OPEN one a run in REFERRAL, a TOPUP one a run in a charging state, on its account number (R129). -/
structure State.ReferralLaw (s : State) : Prop where
  stations : (s.referrals.map (·.station)).Nodup
  ids : (s.referrals.map (·.id)).Nodup
  serves : ∀ r ∈ s.referrals, ∃ j, s.job r.station = some j ∧ j.account = r.account ∧ (r.kind = .opening ↔ j.state = .referral)

/-- The laws of the sheet path and the referral queue together, with the one parameter bound they rest on (R172). -/
structure State.SheetLaw (s : State) : Prop where
  step : 1 ≤ s.params.holdStep
  runs : ∀ st : Station, s.RunLaw st
  referrals : s.ReferralLaw

end Machine

end Sys2Proof
end

