-- ==== Sys2Proof/Certificates/Slice0/Obligations.lean ====
section
/-! DEFINITION. The statements about the part, in the order of the manual's path of a request: the queue, the ports, the runs and their
sheets, the card sessions, the accounts, the prices, the referrals, the log, the stations, the console's services, time and resets, and
last the laws that every step keeps. In a result, `s.handOn link` is the state after the port has handed a frame on (FrameTakenAndAnswered
says what that is), and `t.respond link r` forms the response `r`. -/

open Sys2Proof Sys2Proof.Machine

/-! ### The queue and the steps -/

/-- A step takes the command at the front of the queue. -/
def Obligations.StepTakesFrontCommand : Prop :=
  ∀ (c : Instr) (rest : List Instr) (s : State),
    step { s with pending := c :: rest } = exec c { s with pending := rest }

/-- A step on an empty queue sends the oldest response of each UART link, and changes nothing else (the model's choice, log 4; the order
of the responses is R150). -/
def Obligations.IdleStepSendsOldestResponses : Prop :=
  ∀ s : State, s.pending = [] →
    step s = .next { s with io := { s.io with cOut := s.io.cOut.map (·.drop 1), pOut := s.io.pOut.drop 1 } }

/-- Every command completes: every valid frame is answered (R153), and no rule stops the part. That the commands still waiting stay as they
were, at POWER_ON and RESET_PIN too, is the model's choice: the queue is its own and not the manual's (log 5, log 18). -/
def Obligations.EveryCommandCompletes : Prop :=
  ∀ (c : Instr) (s : State), ∃ t, exec c s = .next t ∧ t.pending = s.pending

/-! ### Ports and frames -/

/-- What a port does with a valid frame before its checks (R151, R153, R164), with a frame handed on (R156), and with a response
(R150, R151). -/
def Obligations.FrameTakenAndAnswered : Prop :=
  ∀ s : State,
    (∀ n : Station,
      s.validFrame (.c n) =
        { s with
          io := { s.io with cPorts := s.io.cPorts.set n { s.io.cPorts[n] with receiver := .hunt } }
          stations := s.stations.set n
            { s.stations[n] with
              presence := .present
              silence := if s.stations[n].state = .off then s.stations[n].silence else some s.params.silence }
          lostTimers := if s.stations[n].presence = .silent then s.lostTimers.set n none else s.lostTimers
          latched := if s.stations[n].presence = .silent then s.latched ||| 0x00000002#32 else s.latched }) ∧
    s.validFrame .p = { s with io := { s.io with pPort := { s.io.pPort with receiver := .hunt } } } ∧
    s.validFrame .m =
      { s with io := { s.io with mPort := { s.io.mPort with receiver := .hunt }, mWaiting := none, mSent := 0 } } ∧
    (∀ link : Link, s.handOn link =
      let t := s.validFrame link
      t.setPort link { t.port link with accepted := min 65535 ((t.port link).accepted + 1) }) ∧
    (∀ (n : Station) (r : Response),
      s.respond (.c n) r = { s with io := { s.io with cOut := s.io.cOut.set n (s.io.cOut[n] ++ [r]) } }) ∧
    (∀ r : Response, s.respond .p r = { s with io := { s.io with pOut := s.io.pOut ++ [r] } }) ∧
    (∀ r : Response, s.respond .m r = { s with io := { s.io with mWaiting := some r, mSent := 0 } })

/-- What a port refuses itself, on any link and in any state: a frame coming while the receiver skips is ignored (R153; log 1); a request
of another link kind is answered ACCESS, the refused counter rises, the last-violation record holds the link and the code, and
ACCESS_VIOLATION is latched; a body of a wrong length, and a code that is no request code, are answered BAD_FORMAT and the refused counter
rises (R156). -/
def Obligations.PortRefusesBeforeTheBlock : Prop :=
  (∀ (i : Instr) (h : Header) (s : State), i.header = some h →
     (s.deaf h.link = true → exec i s = .next s) ∧
     (s.deaf h.link = false → h.link.kind ≠ h.kind →
       exec i s = .next (
         let t := s.validFrame h.link
         let t := t.setPort h.link { t.port h.link with refused := min 65535 ((t.port h.link).refused + 1) }
         { t with io := { t.io with lastViolation := some ⟨h.link, h.code⟩ }, latched := t.latched ||| 0x00000080#32 }.respond
           h.link ⟨.access, []⟩)) ∧
     (s.deaf h.link = false → h.link.kind = h.kind → i.malformed = true →
       exec i s = .next (
         let t := s.validFrame h.link
         (t.setPort h.link { t.port h.link with refused := min 65535 ((t.port h.link).refused + 1) }).respond
           h.link ⟨.badFormat, []⟩))) ∧
  (∀ (link : Link) (code : Byte) (s : State),
     (s.deaf link = true → exec (.invalidRequestCode link code) s = .next s) ∧
     (s.deaf link = false →
       exec (.invalidRequestCode link code) s = .next (
         let t := s.validFrame link
         (t.setPort link { t.port link with refused := min 65535 ((t.port link).refused + 1) }).respond link ⟨.badFormat, []⟩)))

/-- A C-link request that its port hands on is answered STATION_OFF in OFF and HELD in HELD, and changes nothing more (R160); the
template checks of LOAD and the override checks of ADVANCE come before that test and answer BAD_FORMAT (R45, R54). -/
def Obligations.OffAndHeldStationsRefuse : Prop :=
  ∀ (i : Instr) (h : Header) (n : Station) (s : State),
    i.header = some h → h.link = .c n → h.kind = .station → i.malformed = false → i.wf = true → s.deaf (.c n) = false →
    (∀ f, i = .load (.c n) (.of f) → readTemplate f = none →
      exec i s = .next ((s.handOn (.c n)).respond (.c n) ⟨.badFormat, []⟩)) ∧
    (∀ f, i = .advance (.c n) (.of f) → readOverrides f.overrides ⟨none, none⟩ = none →
      exec i s = .next ((s.handOn (.c n)).respond (.c n) ⟨.badFormat, []⟩)) ∧
    ((∀ f, i = .load (.c n) (.of f) → readTemplate f ≠ none) →
      (∀ f, i = .advance (.c n) (.of f) → readOverrides f.overrides ⟨none, none⟩ ≠ none) →
      (s.stations[n].state = .off →
        exec i s = .next ((s.handOn (.c n)).respond (.c n) ⟨.stationOff, []⟩)) ∧
      (s.stations[n].state = .held →
        exec i s = .next ((s.handOn (.c n)).respond (.c n) ⟨.held, []⟩)))

/-- A frame is the start byte, the address, the body length, the code, the body, and the check over the last four, high byte first; the
check of the nine bytes "123456789" is 0x29B1 (R152). Fields are sent most significant byte first, signed ones in two's complement (R179). A
request carries its link's address: n on C-link n, 0x20 on the P-link, 0x30 on the M-link; a response carries that address plus 0x80, its
response code and its body (R154). A request's frame carries the link and the code of its header; a STATION_SET's body is the station, the
action code (1 to 5 for ENABLE, DISABLE, HOLD, RELEASE and OFF) and the flags where present. The response codes and the enumeration codes
are those of the tables of section 9.4. -/
def Obligations.FrameLayoutAndCheck : Prop :=
  (∀ (address code : Byte) (body : List Byte),
    frameBytes address code body =
      [0xA5, address, BitVec.ofNat 8 body.length, code] ++ body ++
        [(crc16 (address :: BitVec.ofNat 8 body.length :: code :: body)).extractLsb' 8 8,
          (crc16 (address :: BitVec.ofNat 8 body.length :: code :: body)).extractLsb' 0 8]) ∧
  crc16 [0x31, 0x32, 0x33, 0x34, 0x35, 0x36, 0x37, 0x38, 0x39] = 0x29B1 ∧
  ((∀ x : Byte, be1 x.toNat = [x]) ∧
   (∀ x : Half, be2 x.toNat = [x.extractLsb' 8 8, x.extractLsb' 0 8]) ∧
   (∀ x : Word, be4 x.toNat = [x.extractLsb' 24 8, x.extractLsb' 16 8, x.extractLsb' 8 8, x.extractLsb' 0 8]) ∧
   (∀ x : Word, be4s x.toInt = be4 x.toNat)) ∧
  ((∀ n : Station, (Link.c n).address.toNat = n.val) ∧ Link.p.address = 0x20 ∧ Link.m.address = 0x30) ∧
  (∀ r : Response,
    (∀ n : Station, r.bytes (.c n) = frameBytes (BitVec.ofNat 8 (0x80 + n.val)) (BitVec.ofNat 8 r.code.code) r.body) ∧
    r.bytes .p = frameBytes 0xA0 (BitVec.ofNat 8 r.code.code) r.body ∧
    r.bytes .m = frameBytes 0xB0 (BitVec.ofNat 8 r.code.code) r.body) ∧
  (∀ (i : Instr) (h : Header) (f : RequestFrame), i.header = some h → encodeRequest i = some f → f.link = h.link ∧ f.code = h.code) ∧
  (∀ (link : Link) (station action : Byte) (flags : Option Byte),
    let body (i : Instr) (code : Byte) : Prop := encodeRequest i = some ⟨link, 0x61, [station, code] ++ flags.toList⟩
    body (.stationSetNone link (.of ⟨station, action, flags⟩)) action ∧
    body (.stationSetEnable link (.of ⟨station, flags⟩)) 1 ∧ body (.stationSetDisable link (.of ⟨station, flags⟩)) 2 ∧
    body (.stationSetHold link (.of ⟨station, flags⟩)) 3 ∧ body (.stationSetRelease link (.of ⟨station, flags⟩)) 4 ∧
    body (.stationSetOff link (.of ⟨station, flags⟩)) 5) ∧
  (([.ok, .pending, .none, .empty, .endOfTable] : List RespCode).map RespCode.code = [0x00, 0x01, 0x02, 0x03, 0x04] ∧
   ([.badFormat, .access, .badValue, .stationOff, .held, .stationHeld, .disabled, .busy, .noPrices, .logFull] : List RespCode).map
       RespCode.code = [0x10, 0x11, 0x12, 0x13, 0x14, 0x15, 0x16, 0x17, 0x18, 0x19] ∧
   ([.noSession, .sessionOpen, .notFound, .frozen, .accountBusy, .noSlot, .noRun, .referral, .jammed, .finishing] : List RespCode).map
       RespCode.code = [0x1A, 0x1B, 0x1C, 0x1D, 0x1E, 0x1F, 0x20, 0x21, 0x22, 0x23] ∧
   ([.sequence, .duplicate, .tableFull, .limit, .conflict, .balance, .bankBusy, .sameBank, .stationBusy, .authLimit] :
       List RespCode).map RespCode.code = [0x24, 0x25, 0x26, 0x27, 0x28, 0x29, 0x2A, 0x2B, 0x2C, 0x2D] ∧
   ([.sessionBusy, .tooLate, .state, .routed, .notLocal, .insufficient] : List RespCode).map RespCode.code =
       [0x2E, 0x2F, 0x30, 0x31, 0x32, 0x33]) ∧
  (([.mono, .colour] : List ColourMode).map ColourMode.code = [0, 1] ∧ ([.simplex, .duplex] : List Sides).map Sides.code = [0, 1] ∧
   ([.a, .b] : List BankName).map BankName.code = [1, 2] ∧ ([.house, .card, .mirror] : List SlotKind).map SlotKind.code = [1, 2, 3] ∧
   ([.prepaid, .postpaid] : List AcctKind).map AcctKind.code = [1, 2] ∧
   ([.opened, .frozen] : List AcctState).map AcctState.code = [1, 2] ∧
   ([.pending, .active] : List MirrorState).map MirrorState.code = [3, 4] ∧
   ([.referral, .active, .starved, .jammed, .finishing] : List RunState).map RunState.code = [1, 2, 3, 4, 5] ∧
   ([.none, .runLimit, .pathFull, .noCredit, .frozen] : List StopReason).map StopReason.code = [0, 1, 2, 3, 4] ∧
   ([.none, .granted, .denied, .timedOut, .cancelled] : List LastOutcome).map LastOutcome.code = [0, 1, 2, 3, 4] ∧
   ([.normal, .idle, .jamTimeout, .linkLost, .console, .teardown] : List CloseReason).map CloseReason.code = [1, 2, 3, 4, 5, 6] ∧
   ([.opened, .closing, .capturing] : List SessionState).map SessionState.code = [1, 2, 3] ∧
   ([.pending, .done, .failed, .abandoned] : List AuthOutcome).map AuthOutcome.code = [0, 1, 2, 3] ∧
   ([.capture, .release] : List OrderKind).map OrderKind.code = [1, 2] ∧
   ([.opening, .topup] : List ReferralKind).map ReferralKind.code = [1, 2] ∧
   ([.waiting, .fetched] : List ReferralState).map ReferralState.code = [1, 2] ∧
   ([.off, .enabled, .draining, .held] : List StationState).map StationState.code = [0, 1, 2, 3] ∧
   ([.enabled, .draining] : List PriorState).map PriorState.code = [1, 2] ∧
   ([.present, .silent] : List Presence).map Presence.code = [0, 1] ∧
   ([.powerOn, .resetPin, .warm] : List ResetCause).map ResetCause.code = [1, 2, 3])

/-- For every well-formed command that a frame spells: the frame's code and body, read on its link, are the command again, with every
field at every value; and the body is no longer than a frame carries (R152, R179). -/
def Obligations.DecodeOfEncodeIsTheCommand : Prop :=
  ∀ (i : Instr) (f : RequestFrame), i.wf = true → encodeRequest i = some f →
    decodeRequest f.link f.code f.body = i ∧ f.body.length ≤ 120

/-- The bytes of a request's frame, heard one after another by a hunting receiver, have exactly the effect of the request (R152 to
R154). That the row FRAME_DISCARDED brings the bytes, and takes a whole valid frame among them, is the model's choice (log 2),
and so is its row being the arrival of its last byte (log 1). -/
def Obligations.HeardFrameIsTheRequest : Prop :=
  ∀ (i : Instr) (f : RequestFrame) (s : State), i.wf = true → encodeRequest i = some f → (s.port f.link).receiver = .hunt →
    exec (.frameDiscarded f.link (f.bytes.map (fun v => ⟨v, false⟩))) s = exec i s

/-- The receiver's table, one byte at a time (R153, R157): what each byte does to the receiver, the discarded counter, the discard-armed
flag and DISCARDS, on a link that holds no waiting response; the last check byte of a valid frame is the arrival of its request (R156; log
1); and bytes heard together have the effect of the same bytes heard one after another, on every link and in every state. That the row
FRAME_DISCARDED brings every byte heard, those too that discard nothing, is the model's choice (log 2), and a faulty start byte in HUNT
counts as any other byte (log 15). -/
def Obligations.ReceiverDiscards : Prop :=
  (∀ (link : Link) (x : LineByte) (s : State), (link = .m → s.io.mWaiting = none ∧ x.faulty = false) →
     let moved (r : Receiver) : State := s.setPort link { s.port link with receiver := r }
     let thrown (r : Receiver) : State :=
       { s.setPort link
           { s.port link with receiver := r, discarded := min 65535 ((s.port link).discarded + 1), armed := false } with
         latched := if (s.port link).armed = true then s.latched ||| 0x00000800#32 else s.latched }
     let after : Host.Outcome State Fault Refusal := exec (.frameDiscarded link [x]) s
     ((s.port link).receiver = .hunt → x.value = 0xA5 → x.faulty = false → after = .next (moved (.receive []))) ∧
     ((s.port link).receiver = .hunt → x.value ≠ 0xA5 ∨ x.faulty = true → link ≠ .m → after = .next (thrown .skip)) ∧
     ((s.port link).receiver = .hunt → x.value ≠ 0xA5 → link = .m → after = .next s) ∧
     ((s.port link).receiver = .skip → after = .next s) ∧
     (∀ got, (s.port link).receiver = .receive got → x.faulty = true → after = .next (thrown .skip)) ∧
     (∀ address, (s.port link).receiver = .receive [address] → x.faulty = false → 120 < x.value.toNat →
       after = .next (thrown .skip)) ∧
     (∀ address length code body high, (s.port link).receiver = .receive (address :: length :: code :: (body ++ [high])) →
       length.toNat = body.length → body.length ≤ 120 → x.faulty = false →
       (address ≠ link.address ∨ high ++ x.value ≠ crc16 (address :: length :: code :: body)) →
       after = .next (thrown .hunt)) ∧
     (∀ length code body high,
       (s.port link).receiver = .receive (link.address :: length :: code :: (body ++ [high])) →
       length.toNat = body.length → body.length ≤ 120 → x.faulty = false →
       high ++ x.value = crc16 (link.address :: length :: code :: body) →
       after = exec (decodeRequest link code body) s) ∧
     (∀ got, (s.port link).receiver = .receive got → x.faulty = false →
       (got = [] ∨ (∃ address, got = [address] ∧ x.value.toNat ≤ 120) ∨
         (∃ address length rest, got = address :: length :: rest ∧ length.toNat ≤ 120 ∧ rest.length + 1 ≠ length.toNat + 3)) →
       after = .next (moved (.receive (got ++ [x.value]))))) ∧
  (∀ (link : Link) (s : State), exec (.frameDiscarded link []) s = .next s) ∧
  (∀ (link : Link) (x : LineByte) (rest : List LineByte) (s t : State), exec (.frameDiscarded link [x]) s = .next t →
    exec (.frameDiscarded link (x :: rest)) s = exec (.frameDiscarded link rest) t)

/-- The M-link's waiting response (R151): READY is high exactly while one waits; the byte clocked out is 0x00 while none does, and the
next byte of its frame while one does; a byte clocked in other than the start byte clocks one byte of it out, the last byte ends it, a start
byte discards it and begins a request; fillers as many as its frame has bytes clock out exactly that frame; RESPONSE_CLOCKED_OUT ends it,
and a release of select sends it again from its first byte. A quiet line (R153): a partial frame is discarded and counted and a skipping
receiver hunts again, on a gap of more than 5 ms and, on the M-link, on select released; a hunting receiver stays as it is. That the row
FRAME_DISCARDED brings the bytes clocked in, fillers and start bytes too, is the model's choice (log 2), the count of the bytes clocked out
is the model's own field (log 18), and so is the byte that goes out against a start byte (log 23). -/
def Obligations.WaitingResponseAndQuietLine : Prop :=
  (∀ s : State,
     (s.ready = true ↔ s.io.mWaiting ≠ none) ∧
     (s.io.mWaiting = none → s.dataOut = 0x00) ∧
     (∀ r, s.io.mWaiting = some r → s.io.mSent < (r.bytes .m).length → (r.bytes .m)[s.io.mSent]? = some s.dataOut) ∧
     s.clockedOut [] = [] ∧
     (∀ (x : LineByte) (rest : List LineByte) (t : State), exec (.frameDiscarded .m [x]) s = .next t →
       s.clockedOut (x :: rest) = s.dataOut :: t.clockedOut rest) ∧
     exec .responseClockedOut s = .next { s with io := { s.io with mWaiting := none, mSent := 0 } }) ∧
  (∀ (s : State) (r : Response) (x : Byte), s.io.mWaiting = some r → s.io.mPort.receiver = .hunt →
     (x ≠ 0xA5 → s.io.mSent + 1 < (r.bytes .m).length →
       exec (.frameDiscarded .m [⟨x, false⟩]) s = .next { s with io := { s.io with mSent := s.io.mSent + 1 } }) ∧
     (x ≠ 0xA5 → (r.bytes .m).length ≤ s.io.mSent + 1 →
       exec (.frameDiscarded .m [⟨x, false⟩]) s = .next { s with io := { s.io with mWaiting := none, mSent := 0 } }) ∧
     (x = 0xA5 →
       exec (.frameDiscarded .m [⟨x, false⟩]) s = .next
         { s with io := { s.io with mWaiting := none, mSent := 0, mPort := { s.io.mPort with receiver := .receive [] } } }) ∧
     exec .selectReleased s = .next { s with io := { s.io with mSent := 0 } }) ∧
  (∀ (s : State) (r : Response) (fillers : List Byte), s.io.mWaiting = some r → s.io.mPort.receiver = .hunt → s.io.mSent = 0 →
     fillers.length = (r.bytes .m).length → (∀ x ∈ fillers, x ≠ 0xA5) →
     s.clockedOut (fillers.map (fun x => ⟨x, false⟩)) = r.bytes .m ∧
       exec (.frameDiscarded .m (fillers.map (fun x => ⟨x, false⟩))) s = .next
         { s with io := { s.io with mWaiting := none, mSent := 0 } }) ∧
  (∀ (link : Link) (s : State),
     let moved : State := s.setPort link { s.port link with receiver := .hunt }
     let thrown : State :=
       { s.setPort link
           { s.port link with receiver := .hunt, discarded := min 65535 ((s.port link).discarded + 1), armed := false } with
         latched := if (s.port link).armed = true then s.latched ||| 0x00000800#32 else s.latched }
     let resend (t : State) : State := { t with io := { t.io with mSent := 0 } }
     ((s.port link).receiver = .hunt →
       exec (.receiveGapTimeout link) s = .next s ∧ (link = .m → exec .selectReleased s = .next (resend s))) ∧
     (∀ got, (s.port link).receiver = .receive got →
       exec (.receiveGapTimeout link) s = .next thrown ∧ (link = .m → exec .selectReleased s = .next (resend thrown))) ∧
     ((s.port link).receiver = .skip →
       exec (.receiveGapTimeout link) s = .next moved ∧ (link = .m → exec .selectReleased s = .next (resend moved))))

/-! ### Runs: LOAD -/

/-- A LOAD that resolves to a house record, to the station's card slot or to an ACTIVE mirror opens the run in ACTIVE, with every effect
of R49 and no other, and is answered OK (R45 to R49). -/
def Obligations.LoadOpensRun : Prop :=
  ∀ (s : State) (st : Station) (f : LoadFields) (template : Template) (bank : BankName),
    s.deaf (.c st) = false → f.media.toNat = template.media.val → f.colour.toNat = template.colour.code →
    f.sides.toNat = template.sides.code → s.stations[st].state = .enabled → s.job st = none → s.active = some bank →
    s.reserved < 256 - s.log.length →
    let opened (account : Word) (slot : SlotKind) (tier : Tier) : State :=
      { s.handOn (.c st) with
        runs := s.runs.set st
          { job := some
              { state := .active, account := account, slot := slot, tier := tier, bank := bank
                generation := (s.bank bank).generation, jamAllowance := s.params.jamAllowance, template := template
                lastBurst := none, charge := 0, settled := 0, hold := 0, granted := 0, delivered := 0, credited := 0
                disputed := 0, netMono := 0, netColour := 0, jams := 0, sinceInterim := 0
                idleTimer := some s.params.runIdle }
            lastOutcome := .none }
        bankA := if bank = .a then { s.bankA with users := s.bankA.users + 1 } else s.bankA
        bankB := if bank = .b then { s.bankB with users := s.bankB.users + 1 } else s.bankB
        reserved := s.reserved + 1 }
    let answer (slot : Nat) (tier : Tier) (available : Int) : Response :=
      ⟨.ok, be1 2 ++ be1 slot ++ be1 tier.val ++ be2 (s.bank bank).generation ++ be4s available⟩
    let result := exec (.load (.c st) (.of f)) s
    (∀ r, 1 ≤ f.account.toNat → f.account.toNat ≤ 0xFFFFFFEF → s.sessionOpen st = false → s.isRemote f.account = false →
      s.stations[st].flags.accountRuns = true → s.houseRecord f.account = some r → r.state = .opened →
      (r.maxRuns = 0 ∨ r.credit.runList.length < r.maxRuns) →
      result = .next
        (State.respond { opened f.account .house r.tier with
            house := s.house.map (fun x =>
              if x.number = f.account then { x with credit := { x.credit with runList := x.credit.runList ++ [st] } }
              else x) } (.c st) (answer 1 r.tier (r.credit.balance + r.limit - r.credit.held)))) ∧
    (∀ x c, f.account = 0 → s.sessions[st] = some x → x.state = .opened → s.stations[st].flags.cardRuns = true →
      s.cards[st] = some c →
      result = .next
        (State.respond { opened (BitVec.ofNat 32 (0xFFFFFFF0 + st.val)) .card x.tier with
            cards := s.cards.set st (some { c with runList := c.runList ++ [st] }) }
          (.c st) (answer 2 x.tier (c.balance - c.held)))) ∧
    (∀ m, 1 ≤ f.account.toNat → f.account.toNat ≤ 0xFFFFFFEF → s.sessionOpen st = false → s.isRemote f.account = true →
      s.stations[st].flags.remoteRuns = true → s.mirrorOf f.account = some m → m.state = .active →
      result = .next
        (State.respond { opened f.account .mirror m.tier with
            mirrors := s.mirrors.map (fun x =>
              if x.number = f.account then { x with credit := { x.credit with runList := x.credit.runList ++ [st] } }
              else x) } (.c st) (answer 3 m.tier (m.credit.balance - m.credit.held))))

/-- A LOAD on a remote number that no mirror holds, with a slot free, opens the run in REFERRAL with a PENDING mirror and an OPEN referral
at the tail of the queue, latches REFERRAL_WAITING, and is answered PENDING (R50, R121); the referral's id is the next one that no
referral holds: the counter's own where it is free, and otherwise the one after ids that are all held (R120). -/
def Obligations.LoadOpensReferral : Prop :=
  (∀ (s : State) (st : Station) (f : LoadFields) (template : Template) (bank : BankName),
    s.deaf (.c st) = false → f.media.toNat = template.media.val → f.colour.toNat = template.colour.code →
    f.sides.toNat = template.sides.code → s.stations[st].state = .enabled → s.job st = none → s.active = some bank →
    s.reserved < 256 - s.log.length → 1 ≤ f.account.toNat → f.account.toNat ≤ 0xFFFFFFEF → s.sessionOpen st = false →
    s.isRemote f.account = true → s.stations[st].flags.remoteRuns = true → s.mirrorOf f.account = none →
    s.mirrors.length < 16 →
    exec (.load (.c st) (.of f)) s = .next
      (State.respond { s.handOn (.c st) with
          mirrors := s.mirrors ++
            [{ number := f.account, state := .pending, tier := 0, credit := { balance := 0, held := 0, runList := [st] } }]
          referrals := s.referrals ++
            [{ id := s.nextReferralId, kind := .opening, station := st, account := f.account
               requested := s.params.referralOpen, state := .waiting, timeout := s.params.referralTimeout }]
          referralNextId := if 255 ≤ s.nextReferralId then 1 else s.nextReferralId + 1
          latched := (s.handOn (.c st)).latched ||| 0x00000010#32
          runs := s.runs.set st
            { job := some
                { state := .referral, account := f.account, slot := .mirror, tier := 0, bank := bank
                  generation := (s.bank bank).generation, jamAllowance := s.params.jamAllowance, template := template
                  lastBurst := none, charge := 0, settled := 0, hold := 0, granted := 0, delivered := 0, credited := 0
                  disputed := 0, netMono := 0, netColour := 0, jams := 0, sinceInterim := 0, idleTimer := none }
              lastOutcome := .none }
          bankA := if bank = .a then { s.bankA with users := s.bankA.users + 1 } else s.bankA
          bankB := if bank = .b then { s.bankB with users := s.bankB.users + 1 } else s.bankB
          reserved := s.reserved + 1 } (.c st)
        ⟨.pending, be1 1 ++ be1 3 ++ be2 (s.bank bank).generation ++ be1 s.nextReferralId⟩)) ∧
  (∀ s : State, s.referrals.length ≤ 8 → 1 ≤ s.referralNextId → s.referralNextId ≤ 255 →
    1 ≤ s.nextReferralId ∧ s.nextReferralId ≤ 255 ∧ (∀ r ∈ s.referrals, r.id ≠ s.nextReferralId) ∧
    ((∀ r ∈ s.referrals, r.id ≠ s.referralNextId) → s.nextReferralId = s.referralNextId)) ∧
  (∀ s : State,
    let after : Nat → Nat := fun n => if 255 ≤ n then 1 else n + 1
    ∃ steps : Nat, s.nextReferralId = Nat.repeat after steps s.referralNextId ∧
      ∀ k < steps, ∃ r ∈ s.referrals, r.id = Nat.repeat after k s.referralNextId)

/-- The refusals of a LOAD in their order, each changing nothing but what the port and, at LOG_FULL, ADMISSION_REFUSED record (R45 to
R48). -/
def Obligations.LoadRefusals : Prop :=
  ∀ (s : State) (st : Station) (f : LoadFields) (template : Template),
    s.deaf (.c st) = false → f.media.toNat = template.media.val → f.colour.toNat = template.colour.code →
    f.sides.toNat = template.sides.code →
    let refused (code : RespCode) : Prop :=
      exec (.load (.c st) (.of f)) s = .next ((s.handOn (.c st)).respond (.c st) ⟨code, []⟩)
    let ordinary : Prop := 1 ≤ f.account.toNat ∧ f.account.toNat ≤ 0xFFFFFFEF
    (s.stations[st].state = .draining → refused .disabled) ∧
    (s.stations[st].state = .enabled →
      (s.job st ≠ none → refused .busy) ∧
      (s.job st = none →
        (s.active = none → refused .noPrices) ∧
        (s.active ≠ none →
          (256 - s.log.length ≤ s.reserved →
            exec (.load (.c st) (.of f)) s = .next
              (State.respond { s.handOn (.c st) with latched := (s.handOn (.c st)).latched ||| 0x00000400#32 } (.c st)
                ⟨.logFull, []⟩)) ∧
          (s.reserved < 256 - s.log.length →
            (f.account = 0 →
              (s.sessionOpen st = false → refused .noSession) ∧
              (s.sessionOpen st = true → s.stations[st].flags.cardRuns = false → refused .disabled)) ∧
            (0xFFFFFFF0 ≤ f.account.toNat → refused .badValue) ∧
            (ordinary →
              (s.sessionOpen st = true → refused .sessionOpen) ∧
              (s.sessionOpen st = false →
                (s.isRemote f.account = true →
                  (s.stations[st].flags.remoteRuns = false → refused .disabled) ∧
                  (s.stations[st].flags.remoteRuns = true →
                    (∀ m, s.mirrorOf f.account = some m → m.state = .pending → refused .busy) ∧
                    (s.mirrorOf f.account = none → 16 ≤ s.mirrors.length → refused .noSlot))) ∧
                (s.isRemote f.account = false →
                  (s.stations[st].flags.accountRuns = false → refused .disabled) ∧
                  (s.stations[st].flags.accountRuns = true →
                    (s.houseRecord f.account = none → refused .notFound) ∧
                    (∀ r, s.houseRecord f.account = some r →
                      (r.state = .frozen → refused .frozen) ∧
                      (r.state = .opened → r.maxRuns ≠ 0 → r.maxRuns ≤ r.credit.runList.length →
                        refused .accountBusy))))))))))

/-! ### Credit, prices and sheets -/

/-- The growth step is the shortfall rounded up to a multiple of the hold step; growth is decided by FROZEN, then by the step, then by the
shortfall itself (R10); and a change of one record's credit fields reaches that record and no other (R4). -/
def Obligations.HoldGrowth : Prop :=
  (∀ (s : State) (slot : SlotKind) (n : Word) (x g : Nat),
    1 ≤ x → 1 ≤ s.params.holdStep → s.params.holdStep ∣ g → x ≤ g → g < x + s.params.holdStep →
    (s.isFrozen slot n = true → s.growthFor slot n x = .failed .frozen) ∧
    (s.isFrozen slot n = false →
      ((g : Int) ≤ s.available slot n → s.growthFor slot n x = .grown g) ∧
      (s.available slot n < (g : Int) → (x : Int) ≤ s.available slot n → s.growthFor slot n x = .grown x) ∧
      (s.available slot n < (x : Int) → s.growthFor slot n x = .failed .noCredit))) ∧
  (∀ (s : State) (n : Word) (f : Credit → Credit),
    (∀ m : Word, (s.mapCredit .house n f).creditOf .house m =
      if m = n then (s.creditOf .house m).map f else s.creditOf .house m) ∧
    (∀ m : Word, (s.mapCredit .mirror n f).creditOf .mirror m =
      if m = n then (s.creditOf .mirror m).map f else s.creditOf .mirror m)) ∧
  (∀ (s : State) (n : Word) (f : Credit → Credit),
    s.mapCredit .house n f =
      { s with house := s.house.map (fun x => if x.number = n then { x with credit := f x.credit } else x) } ∧
    s.mapCredit .mirror n f =
      { s with mirrors := s.mirrors.map (fun x => if x.number = n then { x with credit := f x.credit } else x) }) ∧
  (∀ (s : State) (st : Station) (f : Credit → Credit),
    s.mapCredit .card (BitVec.ofNat 32 (0xFFFFFFF0 + st.val)) f =
      { s with cards := s.cards.set st (s.cards[st].map f) })

/-- The sheet price: F from the tier's base, B for a duplex sheet rounded down, R = F + B (R34); the discount of the qualifying break with
the greatest threshold, on a tie the highest break number, and 0 where none qualifies (R35); D = R × (1,000 − d) / 1,000 rounded half up
(R36). -/
def Obligations.SheetPrice : Prop :=
  (∀ (t : TierPrices) (k : SheetKind),
    rawPrice t k .simplex = t.base[k] ∧
    rawPrice t k .duplex = t.base[k] + t.base[k] * t.back / 100 ∧
    (t.back ≤ 100 → t.base[k] ≤ 65535 → ∀ sides, rawPrice t k sides ≤ 131070) ∧
    (t.back ≤ 100 → t.base[k] * t.back / 100 ≤ t.base[k]) ∧
    (t.back = 100 → rawPrice t k .duplex = t.base[k] + t.base[k]) ∧
    (t.back = 0 → rawPrice t k .duplex = rawPrice t k .simplex) ∧
    (t.base[k] = 1250 → t.back = 55 → rawPrice t k .duplex = 1250 + 687)) ∧
  (∀ (t : TierPrices) (n : Nat),
    let qualifies (i : Fin 4) : Prop := t.breaks[i].threshold ≠ 0 ∧ t.breaks[i].threshold ≤ n
    (∀ i : Fin 4, qualifies i →
      (∀ j : Fin 4, qualifies j →
        t.breaks[j].threshold < t.breaks[i].threshold ∨ (t.breaks[j].threshold = t.breaks[i].threshold ∧ j ≤ i)) →
      discountFor t n = t.breaks[i].discount) ∧
    ((∀ i : Fin 4, ¬ qualifies i) → discountFor t n = 0)) ∧
  (∀ (t : TierPrices) (k : SheetKind) (sides : Sides) (n : Nat),
    sheetPrice t k sides n = (rawPrice t k sides * (1000 - discountFor t n) + 500) / 1000 ∧
    (discountFor t n = 0 → sheetPrice t k sides n = rawPrice t k sides) ∧
    (discountFor t n = 1000 → sheetPrice t k sides n = 0) ∧
    (rawPrice t k sides ≤ 131070 →
      sheetPrice t k sides n ≤ 131070 ∧ rawPrice t k sides * (1000 - discountFor t n) + 500 ≤ 131070500)) ∧
  (∀ (s : State) (j : Job) (k : SheetKind) (sides : Sides),
    s.priceFor j k sides =
      sheetPrice (s.bank j.bank).tiers[j.tier] k sides ((if 8 ≤ k.val then j.netColour else j.netMono) + 1))

/-- The tests of a sheet in their order, and what a granted sheet changes (R38, R56, R57). -/
def Obligations.SheetTestsInOrder : Prop :=
  ∀ (s : State) (st : Station) (j : Job) (k : SheetKind) (sides : Sides), s.job st = some j →
    let d := s.priceFor j k sides
    let needed := (j.charge + d + 99) / 100 - j.settled
    let granted (g : Nat) : State :=
      { s.mapCredit j.slot j.account (fun c => { c with held := c.held + g }) with
        paths := s.paths.set st (s.paths[st] ++ [{ seq := j.granted + 1, kind := k, sides := sides, price := d }])
        runs := s.runs.set st
          { s.runs[st] with
            job := some
              { j with
                charge := j.charge + d
                hold := j.hold + g
                granted := j.granted + 1
                netMono := if k.val < 8 then j.netMono + 1 else j.netMono
                netColour := if 8 ≤ k.val then j.netColour + 1 else j.netColour } } }
    (9999 ≤ j.granted → s.trySheet st k sides = .stopped .runLimit 0) ∧
    (j.granted < 9999 → 16 ≤ s.paths[st].length → s.trySheet st k sides = .stopped .pathFull 0) ∧
    (j.granted < 9999 → s.paths[st].length < 16 →
      (needed ≤ j.hold → s.trySheet st k sides = .granted (granted 0)) ∧
      (∀ g, j.hold < needed → s.growthFor j.slot j.account (needed - j.hold) = .grown g →
        s.trySheet st k sides = .granted (granted g)) ∧
      (∀ why, j.hold < needed → s.growthFor j.slot j.account (needed - j.hold) = .failed why →
        s.trySheet st k sides = .stopped why (needed - j.hold)))

/-! ### Runs: ADVANCE -/

/-- A fresh burst of `count` sheets, the count clamped to 1 to 4, grants the sheets that pass their tests one after another and stops at
the first that fails: the answer, the last burst, the restarted idle timer, the run's state, and the TOPUP that a mirror's burst stopped
for NO_CREDIT asks for (R54 to R59, R122). -/
def Obligations.AdvanceGrantsBurst : Prop :=
  ∀ (s t : State) (st : Station) (f : AdvanceFields) (o : Overrides) (j jt : Job) (g : Nat),
    s.deaf (.c st) = false → s.serves st → f.overrides.length ≤ 2 → readOverrides f.overrides ⟨none, none⟩ = some o →
    s.job st = some j → (j.state = .active ∨ j.state = .starved) → f.firstSeq.toNat = j.granted + 1 →
    (s.handOn (.c st)).grants st (o.kindFor j.template) (o.sidesFor j.template) g t → t.job st = some jt →
    let count := max 1 (min 4 f.count.toNat)
    let after (state : RunState) (stop : StopReason) : State :=
      { t with
        runs := t.runs.set st
          { t.runs[st] with
            job := some
              { jt with
                state := state
                lastBurst := some { firstSeq := j.granted + 1, granted := g, stop := stop, hold := jt.hold, charge := jt.charge }
                idleTimer := some s.params.runIdle } } }
    let stopCode (why : StopReason) : Nat :=
      match why with | .none => 0 | .runLimit => 1 | .pathFull => 2 | .noCredit => 3 | .frozen => 4
    let answer (stop : Nat) : Response :=
      ⟨.ok, be2 (j.granted + 1) ++ be1 g ++ be1 stop ++ be4 jt.hold ++ be4 jt.charge⟩
    let result := exec (.advance (.c st) (.of f)) s
    (g = count → result = .next ((after .active .none).respond (.c st) (answer 0))) ∧
    (∀ why x, g < count → t.trySheet st (o.kindFor j.template) (o.sidesFor j.template) = .stopped why x →
      let state := if g ≠ 0 then RunState.active else if why = .noCredit ∨ why = .frozen then .starved else j.state
      (j.slot ≠ .mirror ∨ why ≠ .noCredit ∨ s.topupWaits j.account = true →
        result = .next ((after state why).respond (.c st) (answer (stopCode why)))) ∧
      (j.slot = .mirror → why = .noCredit → s.topupWaits j.account = false →
        result = .next
          (State.respond { after state why with
              referrals := s.referrals ++
                [{ id := s.nextReferralId, kind := .topup, station := st, account := j.account
                   requested := (x + s.params.holdStep - 1) / s.params.holdStep * s.params.holdStep
                   state := .waiting, timeout := s.params.referralTimeout }]
              referralNextId := if 255 ≤ s.nextReferralId then 1 else s.nextReferralId + 1
              latched := (s.handOn (.c st)).latched ||| 0x00000010#32 } (.c st) (answer (stopCode why)))))

/-- The overrides of an ADVANCE: tag 0x01 a sheet kind of 0 to 15, tag 0x02 the sides, each at most once and in either order, all of them
refused where one is; the template stands where one is absent (R54). An ADVANCE that is no fresh burst: the last burst's answer again where
its first seq is repeated and it granted a sheet, SEQUENCE otherwise, and in the other run states the refusal that names the state; no state
of the run changes (R54, R55). -/
def Obligations.AdvanceOverridesRepeatsAndRefusals : Prop :=
  ((∀ (o : Override), (readOverrides [o] ⟨none, none⟩ = none ↔
       ¬ (o.tag = 0x01 ∧ o.value.toNat ≤ 15) ∧ ¬ (o.tag = 0x02 ∧ o.value.toNat ≤ 1))) ∧
   (∀ (o o' : Override), readOverrides [o] ⟨none, none⟩ ≠ none → readOverrides [o'] ⟨none, none⟩ ≠ none →
     (readOverrides [o, o'] ⟨none, none⟩ = none ↔ o.tag = o'.tag)) ∧
   (∀ (o o' : Override), readOverrides [o] ⟨none, none⟩ = none ∨ readOverrides [o'] ⟨none, none⟩ = none →
     readOverrides [o, o'] ⟨none, none⟩ = none) ∧
   (∀ (t : Template) (v w : Byte) (o : Overrides),
     readOverrides [⟨0x01, v⟩, ⟨0x02, w⟩] ⟨none, none⟩ = some o ∨ readOverrides [⟨0x02, w⟩, ⟨0x01, v⟩] ⟨none, none⟩ = some o →
     (o.kindFor t).val = v.toNat ∧ o.sidesFor t = (if w = 0 then .simplex else .duplex)) ∧
   (∀ (t : Template) (o : Overrides), readOverrides [] ⟨none, none⟩ = some o →
     (o.kindFor t).val = t.media.val + (if t.colour = .colour then 8 else 0) ∧ o.sidesFor t = t.sides) ∧
   (∀ (t : Template) (v : Byte) (o : Overrides), readOverrides [⟨0x01, v⟩] ⟨none, none⟩ = some o →
     (o.kindFor t).val = v.toNat ∧ o.sidesFor t = t.sides) ∧
   (∀ (t : Template) (v : Byte) (o : Overrides), readOverrides [⟨0x02, v⟩] ⟨none, none⟩ = some o →
     (o.kindFor t).val = t.media.val + (if t.colour = .colour then 8 else 0) ∧
       o.sidesFor t = (if v = 0 then .simplex else .duplex))) ∧
  (∀ (s : State) (st : Station) (f : AdvanceFields) (o : Overrides),
     s.deaf (.c st) = false → s.serves st → f.overrides.length ≤ 2 → readOverrides f.overrides ⟨none, none⟩ = some o →
     let stopCode (why : StopReason) : Nat :=
       match why with | .none => 0 | .runLimit => 1 | .pathFull => 2 | .noCredit => 3 | .frozen => 4
     let answered (r : Response) : Prop :=
       exec (.advance (.c st) (.of f)) s = .next ((s.handOn (.c st)).respond (.c st) r)
     (s.job st = none → answered ⟨.noRun, []⟩) ∧
     (∀ j, s.job st = some j →
       (j.state = .referral → answered ⟨.referral, []⟩) ∧
       (j.state = .jammed → answered ⟨.jammed, []⟩) ∧
       (j.state = .finishing → answered ⟨.finishing, []⟩) ∧
       (j.state = .active ∨ j.state = .starved → f.firstSeq.toNat ≠ j.granted + 1 →
         (∀ b, j.lastBurst = some b → b.firstSeq = f.firstSeq.toNat → b.granted ≠ 0 →
           answered ⟨.ok, be2 b.firstSeq ++ be1 b.granted ++ be1 (stopCode b.stop) ++ be4 b.hold ++ be4 b.charge⟩) ∧
         ((∀ b, j.lastBurst = some b → b.firstSeq ≠ f.firstSeq.toNat ∨ b.granted = 0) → answered ⟨.sequence, []⟩))))

/-! ### Runs: QUERY, END_RUN, RUN_ABORT, the close and the timers -/

/-- QUERY answers the station, run and session states as they stand and changes nothing (R60); in IDLE the run's fields read 0 (R42). -/
def Obligations.QueryAnswers : Prop :=
  ∀ (s : State) (st : Station), s.deaf (.c st) = false → s.serves st →
    let sessionCode : Nat :=
      match s.sessions[st] with
      | none => 0
      | some x => match x.state with | .opened => 1 | .closing => 2 | .capturing => 3
    let runCode (run : RunState) : Nat :=
      match run with | .referral => 1 | .active => 2 | .starved => 3 | .jammed => 4 | .finishing => 5
    let lastOutcome : Nat :=
      match s.runs[st].lastOutcome with | .none => 0 | .granted => 1 | .denied => 2 | .timedOut => 3 | .cancelled => 4
    let cardBalance : Int := match s.cards[st] with | none => 0 | some c => c.balance
    let answered (run next count hold : Nat) (available : Int) (jams : Nat) : Prop :=
      exec (.query (.c st) (.of ())) s = .next
        ((s.handOn (.c st)).respond (.c st)
          ⟨.ok, be1 (if s.stations[st].state = .enabled then 1 else 2) ++ be1 0 ++ be1 run ++ be2 next ++ be1 count ++ be4 hold ++
            be4s available ++ be1 jams ++ be1 lastOutcome ++ be1 sessionCode ++ be4s cardBalance⟩)
    (s.job st = none → answered 0 0 s.paths[st].length 0 0 0) ∧
    (∀ j, s.job st = some j →
      answered (runCode j.state) (j.granted + 1) s.paths[st].length j.hold (s.available j.slot j.account) j.jams)

/-- END_RUN by the run's state (R61); and RUN_ABORT, in every station state: BAD_VALUE above station 7, NO_RUN in IDLE, a cancel in
REFERRAL, and otherwise the close with reason CONSOLE (R63). The close and the cancel are those of RunEnds; where a request closes no run,
its final debit and record number read 0 (log 11). -/
def Obligations.EndRunAndRunAbort : Prop :=
  (∀ (s : State) (st : Station), s.deaf (.c st) = false → s.serves st →
     let answered (t : State) (run final seq : Nat) : Prop :=
       exec (.endRun (.c st) (.of ())) s = .next (t.respond (.c st) ⟨.ok, be1 run ++ be4 final ++ be2 seq⟩)
     let h := s.handOn (.c st)
     (s.job st = none → answered h 0 0 0) ∧
     (∀ j, s.job st = some j →
       (j.state = .active ∨ j.state = .starved → s.paths[st] = [] →
         answered (h.closeJob st j .normal) 0 ((j.charge + 50) / 100 - j.settled) s.logNext) ∧
       (j.state = .active ∨ j.state = .starved → s.paths[st] ≠ [] →
         answered { h with runs := s.runs.set st { s.runs[st] with job := some { j with state := .finishing } } } 5 0 0) ∧
       (j.state = .jammed → answered (h.closeJob st j .normal) 0 ((j.charge + 50) / 100 - j.settled) s.logNext) ∧
       (j.state = .finishing → answered h 5 0 0) ∧
       (j.state = .referral → answered (h.returnJob st j .cancelled) 0 0 0))) ∧
  (∀ (s : State) (x : Byte), s.deaf .m = false →
     let answered (t : State) (r : Response) : Prop := exec (.runAbort .m (.of x)) s = .next (t.respond .m r)
     let h := s.handOn .m
     (7 < x.toNat → answered h ⟨.badValue, []⟩) ∧
     (∀ st : Station, x.toNat = st.val →
       (s.job st = none → answered h ⟨.noRun, []⟩) ∧
       (∀ j, s.job st = some j →
         (j.state = .referral → answered (h.returnJob st j .cancelled) ⟨.ok, be1 0 ++ be4 0 ++ be2 0⟩) ∧
         (j.state ≠ .referral →
           answered (h.closeJob st j .console)
             ⟨.ok, be1 0 ++ be4 ((j.charge + 50) / 100 - j.settled) ++ be2 s.logNext⟩))))

/-- The close of an open run, as one step: every effect of R67 with R40, R74, R129 and the timers it stops (R87, R89), RUN_CLOSED, and the
draining test (R68, R162); and under the run's law the interims and the close together debit A rounded half up, and the close no more than
the hold (R40). The return of a run from REFERRAL to IDLE, as one step (R53, R129): nothing is debited and no record is written. -/
def Obligations.RunEnds : Prop :=
  (∀ (s : State) (st : Station) (j : Job) (reason : CloseReason), s.job st = some j →
     let final := (j.charge + 50) / 100 - j.settled
     let disputed := j.disputed + s.paths[st].length
     let left (c : Credit) : Credit :=
       { balance := c.balance - final, held := c.held - j.hold, runList := c.runList.filter (fun x => x != st) }
     s.closeJob st j reason =
       { s with
         paths := s.paths.set st []
         house := if j.slot = .house then
             s.house.map (fun x => if x.number = j.account then { x with credit := left x.credit } else x)
           else s.house
         cards := if j.slot = .card then
             s.cards.set (cardStation j.account) (s.cards[cardStation j.account].map left)
           else s.cards
         mirrors := if j.slot = .mirror then
             (s.mirrors.map (fun x => if x.number = j.account then { x with credit := left x.credit } else x)).filter
               (fun x => !(x.number == j.account && x.credit.runList.isEmpty))
           else s.mirrors
         sessions := if j.slot = .card then
             s.sessions.set st (s.sessions[st].map (fun x => { x with spent := x.spent + final }))
           else s.sessions
         bankA := if j.bank = .a then { s.bankA with users := s.bankA.users - 1 } else s.bankA
         bankB := if j.bank = .b then { s.bankB with users := s.bankB.users - 1 } else s.bankB
         log := s.log ++
           [{ seq := s.logNext
              entry := .runClose
               { station := st, account := j.account, slot := j.slot, tier := j.tier, generation := j.generation
                 reason := reason, delivered := j.delivered, credited := j.credited, disputed := disputed, jams := j.jams
                 charge := j.charge, settled := j.settled, final := final } }]
         logNext := if 65535 ≤ s.logNext then 1 else s.logNext + 1
         meters := s.meters.set st
           { s.meters[st] with
             credited := (s.meters[st].credited + j.credited) % 1000000000
             disputed := (s.meters[st].disputed + disputed) % 1000000000 }
         runs := s.runs.set st { s.runs[st] with job := none }
         reserved := s.reserved - 1
         referrals := s.referrals.filter (fun r => r.station != st)
         jamTimers := s.jamTimers.set st none
         lostTimers := s.lostTimers.set st none
         latched := s.latched ||| 0x00000100#32
         stations := if s.stations[st].state = .draining ∧ s.sessionOpen st = false then
             s.stations.set st { s.stations[st] with state := .off, silence := none }
           else s.stations } ∧
     (j.Law s.paths[st] → j.settled + final = (j.charge + 50) / 100 ∧ final ≤ j.hold)) ∧
  (∀ (s : State) (st : Station) (j : Job) (outcome : LastOutcome), s.job st = some j → j.slot = .mirror →
     let left (c : Credit) : Credit := { c with runList := c.runList.filter (fun x => x != st) }
     s.returnJob st j outcome =
       { s with
         referrals := s.referrals.filter (fun r => r.station != st)
         mirrors :=
           (s.mirrors.map (fun x => if x.number = j.account then { x with credit := left x.credit } else x)).filter
             (fun x => !(x.number == j.account && x.credit.runList.isEmpty))
         bankA := if j.bank = .a then { s.bankA with users := s.bankA.users - 1 } else s.bankA
         bankB := if j.bank = .b then { s.bankB with users := s.bankB.users - 1 } else s.bankB
         reserved := s.reserved - 1
         runs := s.runs.set st { job := none, lastOutcome := outcome }
         jamTimers := s.jamTimers.set st none
         lostTimers := s.lostTimers.set st none
         stations := if s.stations[st].state = .draining ∧ s.sessionOpen st = false then
             s.stations.set st { s.stations[st] with state := .off, silence := none }
           else s.stations })

/-- The expiries of a run's timers: each closes the run with its reason where its timer has counted down and is not frozen, the jam timer's
latching JAM_TIMEOUT, the lost timer's cancelling a run in REFERRAL (R64, R65, R87 to R90); otherwise nothing has expired and nothing
changes (log 3). -/
def Obligations.RunTimerExpiries : Prop :=
  ∀ (s : State) (st : Station),
    (s.job st = none →
      exec (.runIdleTimerExpiry st) s = .next s ∧ exec (.jamTimerExpiry st) s = .next s ∧
        exec (.lostTimerExpiry st) s = .next s) ∧
    (∀ j, s.job st = some j →
      let held : Prop := s.stations[st].state = .held
      let silent : Prop := s.stations[st].presence = .silent
      (j.idleTimer = some 0 → ¬ held → ¬ silent → j.state ≠ .jammed →
        exec (.runIdleTimerExpiry st) s = .next (s.closeJob st j .idle)) ∧
      (j.idleTimer ≠ some 0 ∨ held ∨ silent ∨ j.state = .jammed → exec (.runIdleTimerExpiry st) s = .next s) ∧
      (s.jamTimers[st] = some 0 → ¬ held → ¬ silent →
        exec (.jamTimerExpiry st) s = .next
          { s.closeJob st j .jamTimeout with latched := (s.closeJob st j .jamTimeout).latched ||| 0x00000008#32 }) ∧
      (s.jamTimers[st] ≠ some 0 ∨ held ∨ silent → exec (.jamTimerExpiry st) s = .next s) ∧
      (s.lostTimers[st] = some 0 → ¬ held → j.state ≠ .referral →
        exec (.lostTimerExpiry st) s = .next (s.closeJob st j .linkLost)) ∧
      (s.lostTimers[st] = some 0 → ¬ held → j.state = .referral →
        exec (.lostTimerExpiry st) s = .next (s.returnJob st j .cancelled)) ∧
      (s.lostTimers[st] ≠ some 0 ∨ held → exec (.lostTimerExpiry st) s = .next s))

/-! ### The sheet path -/

/-- Bringing out the `n` oldest sheets of a run (R76): the list, the meters of each sheet and the delivered count; and then the interim it
may call for (R39, R66, R78): none below the interval, skipped while the log does not admit it, nothing debited for less than one unit, and
otherwise E rounded down to units debited and recorded. Bringing out no sheet does nothing (R81). -/
def Obligations.SheetsBroughtOut : Prop :=
  ∀ (s : State) (st : Station) (j : Job) (n : Nat), s.job st = some j →
    let out := s.paths[st].take n
    let base : Job := { j with delivered := j.delivered + out.length, sinceInterim := j.sinceInterim + out.length }
    let brought (job : Job) : State :=
      { s with
        paths := s.paths.set st (s.paths[st].drop n)
        meters := s.meters.set st
          (out.foldl
            (fun m e =>
              { m with
                kinds := m.kinds.set e.kind ((m.kinds[e.kind] + 1) % 1000000000)
                duplex := if e.sides = .duplex then (m.duplex + 1) % 1000000000 else m.duplex })
            s.meters[st])
        runs := s.runs.set st { s.runs[st] with job := some job } }
    let due : Prop := s.params.interimInterval ≠ 0 ∧ s.params.interimInterval ≤ j.sinceInterim + out.length
    let e := j.charge - ((s.paths[st].drop n).map (fun x => x.price)).sum - 100 * j.settled
    let k := e / 100
    (n = 0 → s.bringOut st n = (s, .none)) ∧
    (n ≠ 0 →
      (¬ due → s.bringOut st n = (brought base, .none)) ∧
      (due → 256 - s.log.length ≤ s.reserved → s.bringOut st n = (brought base, .skipped)) ∧
      (due → s.reserved < 256 - s.log.length →
        (e < 100 → s.bringOut st n = (brought { base with sinceInterim := 0 }, .made 0 0)) ∧
        (100 ≤ e →
          s.bringOut st n =
            ({ (brought { base with settled := j.settled + k, hold := j.hold - k, sinceInterim := 0 }).mapCredit j.slot j.account
                  (fun c => { c with balance := c.balance - k, held := c.held - k }) with
                sessions := if j.slot = .card then
                    s.sessions.set st (s.sessions[st].map (fun x => { x with spent := x.spent + k }))
                  else s.sessions
                log := s.log ++
                  [{ seq := s.logNext
                     entry := .runInterim
                      { station := st, account := j.account, delivered := j.delivered + out.length, amount := k
                        settled := j.settled + k, generation := j.generation } }]
                logNext := if 65535 ≤ s.logNext then 1 else s.logNext + 1 },
              .made k s.logNext))))

/-- DELIVERED in a charging state other than JAMMED delivers every sheet of the list whose seq is at most the one carried, restarts the
idle timer, and closes a FINISHING run whose list it leaves empty (R62, R75 to R79); an interim result is answered as 0, 1 or 2 with the
debit and the record's number; the delivered count of the answer is the one before the close (log 10). A DELIVERED that delivers nothing
changes nothing: NO_RUN in IDLE and REFERRAL, and OK with a count of 0 in JAMMED and for a seq below the head of the list (R51, R75, R77). -/
def Obligations.DeliveredDelivers : Prop :=
  (∀ (s t : State) (st : Station) (j jt : Job) (seq : Half) (out rest : List PathEntry) (i : InterimResult),
     s.deaf (.c st) = false → s.serves st → s.job st = some j →
     (j.state = .active ∨ j.state = .starved ∨ j.state = .finishing) → s.paths[st] = out ++ rest → out ≠ [] →
     (∀ e ∈ out, e.seq ≤ seq.toNat) → (∀ e, rest.head? = some e → seq.toNat < e.seq) →
     (s.handOn (.c st)).bringOut st out.length = (t, i) → t.job st = some jt →
     let interim : List Byte :=
       match i with
       | .none => be1 0 ++ be4 0 ++ be2 0
       | .skipped => be1 1 ++ be4 0 ++ be2 0
       | .made k number => be1 2 ++ be4 k ++ be2 number
     let jr : Job := { jt with idleTimer := some s.params.runIdle }
     let restarted : State := { t with runs := t.runs.set st { t.runs[st] with job := some jr } }
     let answer (run : Nat) (closing : List Byte) : Response :=
       ⟨.ok, be1 out.length ++ be1 rest.length ++ be2 (j.delivered + out.length) ++ be1 run ++ interim ++ closing⟩
     (j.state ≠ .finishing ∨ rest ≠ [] →
       exec (.delivered (.c st) (.of seq)) s = .next
         (restarted.respond (.c st) (answer j.state.code (be4 0 ++ be2 0)))) ∧
     (j.state = .finishing → rest = [] →
       exec (.delivered (.c st) (.of seq)) s = .next
         ((restarted.closeJob st jr .normal).respond (.c st)
           (answer 0 (be4 ((jt.charge + 50) / 100 - jt.settled) ++ be2 t.logNext))))) ∧
  (∀ (s : State) (st : Station) (seq : Half), s.deaf (.c st) = false → s.serves st →
     let answered (r : Response) : Prop :=
       exec (.delivered (.c st) (.of seq)) s = .next ((s.handOn (.c st)).respond (.c st) r)
     (s.job st = none → answered ⟨.noRun, []⟩) ∧
     (∀ j, s.job st = some j →
       (j.state = .referral → answered ⟨.noRun, []⟩) ∧
       (j.state = .jammed ∨ (j.state ≠ .referral ∧ ∀ e, s.paths[st].head? = some e → seq.toNat < e.seq) →
         answered
           ⟨.ok, be1 0 ++ be1 s.paths[st].length ++ be2 j.delivered ++ be1 j.state.code ++ (be1 0 ++ be4 0 ++ be2 0) ++
             (be4 0 ++ be2 0)⟩)))

/-- JAM in ACTIVE, STARVED or FINISHING (R81 to R84, R87): the sheets up to the last delivered seq and then the recovered ones are brought
out, the others are lost oldest first, credited back while the captured allowance lasts and disputed after that; the jam is counted and
JAM latched; the run becomes JAMMED with its jam timer started, or closes NORMAL from FINISHING. A, next seq and the jams count of the answer
are those before the close (log 10). -/
def Obligations.JamLosesSheets : Prop :=
  ∀ (s t : State) (st : Station) (j jt : Job) (f : JamFields) (out rest : List PathEntry) (i : InterimResult),
    s.deaf (.c st) = false → s.serves st → s.job st = some j →
    (j.state = .active ∨ j.state = .starved ∨ j.state = .finishing) → s.paths[st] = out ++ rest →
    (∀ e ∈ out, e.seq ≤ f.lastDelivered.toNat) → (∀ e, rest.head? = some e → f.lastDelivered.toNat < e.seq) →
    let more := min f.recovered.toNat rest.length
    (s.handOn (.c st)).bringOut st (out.length + more) = (t, i) → t.job st = some jt →
    let interim : List Byte :=
      match i with
      | .none => be1 0 ++ be4 0 ++ be2 0
      | .skipped => be1 1 ++ be4 0 ++ be2 0
      | .made k number => be1 2 ++ be4 k ++ be2 number
    let lost := rest.drop more
    let back := lost.take (jt.jamAllowance - jt.credited)
    let jl : Job :=
      { jt with
        charge := jt.charge - (back.map (fun e => e.price)).sum
        credited := jt.credited + back.length
        disputed := jt.disputed + (lost.length - back.length)
        netMono := jt.netMono - back.countP (fun e => e.kind.val < 8)
        netColour := jt.netColour - back.countP (fun e => 8 ≤ e.kind.val)
        jams := min 255 (jt.jams + 1)
        idleTimer := some s.params.runIdle }
    let after (job : Job) : State :=
      { t with
        paths := t.paths.set st []
        runs := t.runs.set st { t.runs[st] with job := some job }
        meters := t.meters.set st { t.meters[st] with jam := (t.meters[st].jam + 1) % 1000000000 }
        latched := t.latched ||| 0x00000004#32 }
    let answer (run : Nat) (closing : List Byte) : Response :=
      ⟨.ok, be1 out.length ++ be1 more ++ be1 back.length ++ be1 (lost.length - back.length) ++ interim ++ be4 jl.charge ++
        be2 (jt.granted + 1) ++ be1 jl.jams ++ be1 run ++ closing⟩
    (j.state ≠ .finishing →
      exec (.jam (.c st) (.of f)) s = .next
        (State.respond
          { after { jl with state := .jammed } with jamTimers := t.jamTimers.set st (some s.params.jamTimer) }
          (.c st) (answer 4 (be4 0 ++ be2 0)))) ∧
    (j.state = .finishing →
      exec (.jam (.c st) (.of f)) s = .next
        (((after jl).closeJob st jl .normal).respond (.c st)
          (answer 0 (be4 ((jl.charge + 50) / 100 - jl.settled) ++ be2 t.logNext))))

/-- A further JAM in JAMMED is counted, restarts the idle timer and changes nothing else; in IDLE and REFERRAL a JAM is refused NO_RUN
(R51, R80, R85). CLEAR in JAMMED stops the jam timer, makes the run ACTIVE and restarts its idle timer, and answers H, A and next seq; in
every other run state it is answered OK with no effect (R86), the three fields then 0 (log 11). -/
def Obligations.JamCountedAndClear : Prop :=
  (∀ (s : State) (st : Station) (f : JamFields), s.deaf (.c st) = false → s.serves st →
     let h := s.handOn (.c st)
     (s.job st = none → exec (.jam (.c st) (.of f)) s = .next (h.respond (.c st) ⟨.noRun, []⟩)) ∧
     (∀ j, s.job st = some j → j.state = .referral →
       exec (.jam (.c st) (.of f)) s = .next (h.respond (.c st) ⟨.noRun, []⟩)) ∧
     (∀ j, s.job st = some j → j.state = .jammed →
       exec (.jam (.c st) (.of f)) s = .next
         (State.respond
           { h with
             runs := s.runs.set st
               { s.runs[st] with job := some { j with jams := min 255 (j.jams + 1), idleTimer := some s.params.runIdle } }
             meters := s.meters.set st { s.meters[st] with jam := (s.meters[st].jam + 1) % 1000000000 }
             latched := h.latched ||| 0x00000004#32 }
           (.c st)
           ⟨.ok, be1 0 ++ be1 0 ++ be1 0 ++ be1 0 ++ (be1 0 ++ be4 0 ++ be2 0) ++ be4 j.charge ++ be2 (j.granted + 1) ++
             be1 (min 255 (j.jams + 1)) ++ be1 4 ++ (be4 0 ++ be2 0)⟩))) ∧
  (∀ (s : State) (st : Station), s.deaf (.c st) = false → s.serves st →
     let h := s.handOn (.c st)
     (∀ j, s.job st = some j → j.state = .jammed →
       exec (.clear (.c st) (.of ())) s = .next
         (State.respond
           { h with
             runs := s.runs.set st
               { s.runs[st] with job := some { j with state := .active, idleTimer := some s.params.runIdle } }
             jamTimers := s.jamTimers.set st none }
           (.c st) ⟨.ok, be1 2 ++ be4 j.hold ++ be4 j.charge ++ be2 (j.granted + 1)⟩)) ∧
     ((∀ j, s.job st = some j → j.state ≠ .jammed) →
       exec (.clear (.c st) (.of ())) s = .next
         (h.respond (.c st)
           ⟨.ok, be1 (match s.job st with | none => 0 | some j => j.state.code) ++ be4 0 ++ be4 0 ++ be2 0⟩)))

/-! ### Card sessions and captures -/

/-- AUTH_NOTICE opens a session on a station that has none (R97) and tops up an OPEN one (R98). Its refusals in their order, each changing
nothing but ADMISSION_REFUSED at LOG_FULL; a repeated reference is answered DUPLICATE with the amount first taken and the number of
authorizations (R96). -/
def Obligations.AuthNoticeAnswers : Prop :=
  (∀ (s : State) (st : Station) (f : AuthNoticeFields), s.deaf .p = false → f.station.toNat = st.val →
     1 ≤ f.amount.toNat → f.amount.toNat ≤ 100000 → s.stations[st].flags.cardRuns = true →
     let h := s.handOn .p
     let auth : Auth :=
       { reference := f.reference, amount := f.amount.toNat, cardClass := f.cardClass, capture := none, outcome := .pending }
     (∀ tier : Tier, s.stations[st].state = .enabled → s.sessions[st] = none → s.job st = none →
       s.reserved < 256 - s.log.length →
       (∀ entry : Fin 4, f.cardClass.toNat = entry.val → tier = s.params.cardMap[entry]) →
       (3 < f.cardClass.toNat → tier = s.params.cardMap[0]) →
       exec (.authNotice .p (.of f)) s = .next
         (State.respond
           { h with
             sessions := s.sessions.set st
               (some { state := .opened, tier := tier, auths := [auth], spent := 0, idleTimer := some s.params.cardIdle })
             cards := s.cards.set st (some { balance := f.amount.toNat, held := 0, runList := [] })
             reserved := s.reserved + 1 }
           .p ⟨.ok, be1 st.val ++ be1 1 ++ be1 1 ++ be4s f.amount.toNat ++ be1 tier.val⟩)) ∧
     (∀ x c, s.stations[st].state = .enabled ∨ s.stations[st].state = .draining → s.sessions[st] = some x → x.state = .opened →
       s.cards[st] = some c → (∀ a ∈ x.auths, a.reference ≠ f.reference) → x.auths.length < 3 →
       exec (.authNotice .p (.of f)) s = .next
         (State.respond
           { h with
             sessions := s.sessions.set st
               (some { x with auths := x.auths ++ [auth], idleTimer := some s.params.cardIdle })
             cards := s.cards.set st (some { c with balance := c.balance + f.amount.toNat }) }
           .p ⟨.ok, be1 st.val ++ be1 1 ++ be1 (x.auths.length + 1) ++ be4s (c.balance + f.amount.toNat) ++ be1 x.tier.val⟩))) ∧
  (∀ (s : State) (f : AuthNoticeFields), s.deaf .p = false →
     let h := s.handOn .p
     let refused (r : Response) : Prop := exec (.authNotice .p (.of f)) s = .next (h.respond .p r)
     (7 < f.station.toNat → refused ⟨.badValue, []⟩) ∧
     (∀ st : Station, f.station.toNat = st.val →
       (f.amount.toNat = 0 ∨ 100000 < f.amount.toNat → refused ⟨.badValue, []⟩) ∧
       (1 ≤ f.amount.toNat → f.amount.toNat ≤ 100000 →
         (s.stations[st].state = .off → refused ⟨.stationOff, []⟩) ∧
         (s.stations[st].state = .held → refused ⟨.stationHeld, []⟩) ∧
         (s.serves st →
           (s.stations[st].flags.cardRuns = false → refused ⟨.disabled, []⟩) ∧
           (s.stations[st].flags.cardRuns = true →
             (s.sessions[st] = none →
               (s.stations[st].state = .draining → refused ⟨.disabled, []⟩) ∧
               (s.stations[st].state = .enabled →
                 (s.job st ≠ none → refused ⟨.stationBusy, []⟩) ∧
                 (s.job st = none → 256 - s.log.length ≤ s.reserved →
                   exec (.authNotice .p (.of f)) s = .next
                     (State.respond { h with latched := h.latched ||| 0x00000400#32 } .p ⟨.logFull, []⟩)))) ∧
             (∀ x, s.sessions[st] = some x →
               (x.state ≠ .opened → refused ⟨.sessionBusy, []⟩) ∧
               (x.state = .opened →
                 (∀ a, x.auths.find? (fun a => a.reference == f.reference) = some a →
                   refused ⟨.duplicate, be4 a.amount ++ be1 x.auths.length⟩) ∧
                 ((∀ a ∈ x.auths, a.reference ≠ f.reference) → 3 ≤ x.auths.length → refused ⟨.authLimit, []⟩))))))))

/-- SESSION_QUERY answers a station's session and changes nothing, in every station and session state (R99). CAPTURE_HEAD answers the head
order, the number of orders, the head's age, and the stations of the closing wait in order, and changes nothing (R109); an empty queue's
order, count and age read 0 (log 11). -/
def Obligations.SessionQueryAndCaptureHead : Prop :=
  (∀ (s : State) (x : Byte), s.deaf .p = false →
     let answered (r : Response) : Prop := exec (.sessionQuery .p (.of x)) s = .next ((s.handOn .p).respond .p r)
     (7 < x.toNat → answered ⟨.badValue, []⟩) ∧
     (∀ st : Station, x.toNat = st.val →
       (s.sessions[st] = none → answered ⟨.ok, be1 0⟩) ∧
       (∀ y, s.sessions[st] = some y →
         answered
           ⟨.ok, be1 (match y.state with | .opened => 1 | .closing => 2 | .capturing => 3) ++ be1 y.tier.val ++
             be4s (match s.cards[st] with | none => 0 | some c => c.balance) ++
             be4 (match s.cards[st] with | none => 0 | some c => c.held) ++ be4 y.spent ++ be1 y.auths.length ++
             y.auths.flatMap (fun a =>
               be4 a.reference.toNat ++ be4 a.amount ++ [a.cardClass] ++ be4 (a.capture.getD 0) ++ be1 a.outcome.code) ++
             be2 (y.idleTimer.getD 0)⟩))) ∧
  (∀ s : State, s.deaf .m = false →
     let wait : List Byte := be1 s.closingWait.length ++ s.closingWait.flatMap (fun st => be1 st.val)
     (s.captureQueue = [] →
       exec (.captureHead .m (.of ())) s = .next
         ((s.handOn .m).respond .m ⟨.ok, List.replicate 10 0 ++ be1 0 ++ be2 0 ++ wait⟩)) ∧
     (∀ head rest, s.captureQueue = head :: rest →
       exec (.captureHead .m (.of ())) s = .next
         ((s.handOn .m).respond .m
           ⟨.ok, be1 head.station.val ++ be4 head.reference.toNat ++
             be1 (match head.kind with | .capture => 1 | .release => 2) ++ be4 head.amount ++ be1 (rest.length + 1) ++
             be2 s.headAge ++ wait⟩)))

/-- Capture allocation: oldest first, each authorization takes the smaller of its amount and what is left of spent; the amounts stay, and
the captures together are spent where the authorizations are worth it (R103). A session leaving OPEN (R103, R104, R162): where nobody waits
and the queue has room for its orders they join the tail together, the session is CAPTURING and its card slot is gone; otherwise it is
CLOSING at the tail of the closing wait. A DRAINING station whose run is IDLE becomes OFF. -/
def Obligations.SessionLeavesOpen : Prop :=
  (∀ (spent : Nat) (auths : List Auth),
     allocate spent auths =
       auths.mapIdx (fun i a => { a with capture := some (min a.amount (spent - ((auths.take i).map (fun x => x.amount)).sum)) }) ∧
     (spent ≤ (auths.map (fun a => a.amount)).sum →
       ((allocate spent auths).map (fun a => a.capture.getD 0)).sum = spent)) ∧
  (∀ (s : State) (st : Station) (x : Session),
     let auths := allocate x.spent x.auths
     let stations : Vector StationRecord 8 :=
       if s.stations[st].state = .draining ∧ s.job st = none then
         s.stations.set st { s.stations[st] with state := .off, silence := none }
       else s.stations
     (s.closingWait = [] → s.captureQueue.length + x.auths.length ≤ 16 →
       s.leaveOpen st x =
         { s with
           captureQueue := s.captureQueue ++
             auths.map (fun a =>
               { station := st, reference := a.reference
                 kind := if a.capture.getD 0 = 0 then .release else .capture
                 amount := a.capture.getD 0 })
           sessions := s.sessions.set st (some { x with state := .capturing, auths := auths, idleTimer := none })
           cards := s.cards.set st none
           stallTimer := if s.captureQueue = [] then some s.params.captureStall else s.stallTimer
           headAge := if s.captureQueue = [] then 0 else s.headAge
           stations := stations }) ∧
     (s.closingWait ≠ [] ∨ 16 < s.captureQueue.length + x.auths.length →
       s.leaveOpen st x =
         { s with
           sessions := s.sessions.set st (some { x with state := .closing, auths := auths, idleTimer := none })
           closingWait := s.closingWait ++ [st]
           stations := stations }))

/-- END_SESSION (R102): NO_SESSION for a session that is NONE, BUSY while the run is not IDLE, and otherwise OK, an OPEN session leaving OPEN
as SessionLeavesOpen says and another one staying as it is. -/
def Obligations.EndSessionByState : Prop :=
  ∀ (s : State) (st : Station), s.deaf (.c st) = false → s.serves st →
    let h := s.handOn (.c st)
    let answer (t : State) (y : Session) : Response :=
      ⟨.ok, be1 (match y.state with | .opened => 1 | .closing => 2 | .capturing => 3) ++ be4 y.spent ++ be1 y.auths.length ++
        y.auths.flatMap (fun a => be4 (a.capture.getD 0)) ++
        be1 (if st ∈ t.closingWait then t.closingWait.idxOf st else 0)⟩
    (s.sessions[st] = none → exec (.endSession (.c st) (.of ())) s = .next (h.respond (.c st) ⟨.noSession, []⟩)) ∧
    (∀ x, s.sessions[st] = some x →
      (x.state ≠ .opened → exec (.endSession (.c st) (.of ())) s = .next (h.respond (.c st) (answer s x))) ∧
      (x.state = .opened → s.job st ≠ none →
        exec (.endSession (.c st) (.of ())) s = .next (h.respond (.c st) ⟨.busy, []⟩)) ∧
      (x.state = .opened → s.job st = none → ∀ y, (h.leaveOpen st x).sessions[st] = some y →
        exec (.endSession (.c st) (.of ())) s = .next ((h.leaveOpen st x).respond (.c st) (answer (h.leaveOpen st x) y))))

/-- POLL answers the head order and the number of orders, or NONE, and changes nothing (R107). -/
def Obligations.PollAnswers : Prop :=
  ∀ s : State, s.deaf .p = false →
    (s.captureQueue = [] → exec (.poll .p (.of ())) s = .next ((s.handOn .p).respond .p ⟨.none, []⟩)) ∧
    (∀ head rest, s.captureQueue = head :: rest →
      exec (.poll .p (.of ())) s = .next
        ((s.handOn .p).respond .p
          ⟨.ok, be1 head.station.val ++ be4 head.reference.toNat ++
            be1 (match head.kind with | .capture => 1 | .release => 2) ++ be4 head.amount ++ be1 (rest.length + 1)⟩))

/-- The removal of the head order (R108, steps 1, 2 and 4 to 6; R111 to R113): its outcome is stored in the session's authorization that
has the order's reference (log 20), a session whose authorizations are
all answered is logged into its reserved space and becomes NONE, the closing wait enters CAPTURING in order while it fits, and the stall
timing and the age start afresh for the new head. -/
def Obligations.HeadOrderRemoved : Prop :=
  (∀ (s : State) (head : Order) (rest : List Order) (outcome : AuthOutcome) (x : Session), s.captureQueue = head :: rest →
    s.sessions[head.station] = some x →
    let y : Session :=
      { x with auths := x.auths.map (fun a => if a.reference = head.reference then { a with outcome := outcome } else a) }
    let stored (session : Option Session) : State :=
      { s with captureQueue := rest, sessions := s.sessions.set head.station session }
    let fresh (t : State) : State :=
      { t with stallTimer := if t.captureQueue = [] then none else some t.params.captureStall, headAge := 0 }
    ((∃ a ∈ y.auths, a.outcome = .pending) →
      s.removeHead head rest outcome = fresh (State.tryWait s.closingWait (stored (some y)))) ∧
    ((∀ a ∈ y.auths, a.outcome ≠ .pending) →
      s.removeHead head rest outcome = fresh
        (State.tryWait s.closingWait
          { stored none with
            log := s.log ++
              [{ seq := s.logNext
                 entry := .session { station := head.station, tier := x.tier, spent := x.spent, auths := y.auths } }]
            logNext := if 65535 ≤ s.logNext then 1 else s.logNext + 1
            reserved := s.reserved - 1
            latched := s.latched ||| 0x00000200#32 }))) ∧
  (∀ s : State, State.tryWait [] s = { s with closingWait := [] }) ∧
  (∀ (s : State) (st : Station) (wait : List Station) (x : Session), s.sessions[st] = some x →
    (16 < s.captureQueue.length + x.auths.length → State.tryWait (st :: wait) s = { s with closingWait := st :: wait }) ∧
    (s.captureQueue.length + x.auths.length ≤ 16 →
      State.tryWait (st :: wait) s = State.tryWait wait
        { s with
          captureQueue := s.captureQueue ++
            x.auths.map (fun a =>
              { station := st, reference := a.reference
                kind := if a.capture.getD 0 = 0 then .release else .capture
                amount := a.capture.getD 0 })
          sessions := s.sessions.set st (some { x with state := .capturing, idleTimer := none })
          cards := s.cards.set st none
          stallTimer := if s.captureQueue = [] then some s.params.captureStall else s.stallTimer
          headAge := if s.captureQueue = [] then 0 else s.headAge }))

/-- CAPTURE_RESULT and CAPTURE_ABANDON (R108, R110): BAD_VALUE for another outcome code, NOT_FOUND for an empty queue or another head, and
otherwise the removal of the head with DONE, FAILED (which latches CAPTURE_FAILED) or ABANDONED, answered with the order as POLL gives it,
the orders left and the SESSION record's number. The answer's layout, and that the orders left are counted after the closing wait was tried,
are the model's (log 8), and so is finding the head's authorization by its reference (log 20). -/
def Obligations.CaptureOutcomes : Prop :=
  (∀ (s : State) (f : CaptureResultFields), s.deaf .p = false →
    let h := s.handOn .p
    let answered (t : State) (r : Response) : Prop := exec (.captureResult .p (.of f)) s = .next (t.respond .p r)
    (f.outcome.toNat ≠ 1 → f.outcome.toNat ≠ 2 → answered h ⟨.badValue, []⟩) ∧
    (f.outcome.toNat = 1 ∨ f.outcome.toNat = 2 →
      (s.captureQueue = [] → answered h ⟨.notFound, []⟩) ∧
      (∀ head rest x, s.captureQueue = head :: rest → s.sessions[head.station] = some x →
        (head.reference ≠ f.reference → answered h ⟨.notFound, []⟩) ∧
        (head.reference = f.reference →
          let outcome : AuthOutcome := if f.outcome.toNat = 1 then .done else .failed
          let noted : State := { h with latched := if f.outcome.toNat = 2 then h.latched ||| 0x00000020#32 else h.latched }
          let number : Nat :=
            if ∀ a ∈ x.auths, a.reference ≠ head.reference → a.outcome ≠ .pending then s.logNext else 0
          answered (noted.removeHead head rest outcome)
            ⟨.ok, be1 head.station.val ++ be4 head.reference.toNat ++
              be1 (match head.kind with | .capture => 1 | .release => 2) ++ be4 head.amount ++
              be1 (noted.removeHead head rest outcome).captureQueue.length ++ be2 number⟩)))) ∧
  (∀ (s : State) (f : CaptureAbandonFields), s.deaf .m = false →
    let h := s.handOn .m
    let answered (t : State) (r : Response) : Prop := exec (.captureAbandon .m (.of f)) s = .next (t.respond .m r)
    (s.captureQueue = [] → answered h ⟨.notFound, []⟩) ∧
    (∀ head rest x, s.captureQueue = head :: rest → s.sessions[head.station] = some x →
      (head.station.val ≠ f.station.toNat ∨ head.reference ≠ f.reference → answered h ⟨.notFound, []⟩) ∧
      (head.station.val = f.station.toNat → head.reference = f.reference →
        let number : Nat :=
          if ∀ a ∈ x.auths, a.reference ≠ head.reference → a.outcome ≠ .pending then s.logNext else 0
        answered (h.removeHead head rest .abandoned)
          ⟨.ok, be1 head.station.val ++ be4 head.reference.toNat ++
            be1 (match head.kind with | .capture => 1 | .release => 2) ++ be4 head.amount ++
            be1 (h.removeHead head rest .abandoned).captureQueue.length ++ be2 number⟩)))

/-- The card idle timer's expiry moves an OPEN session as END_SESSION does, and the stall timing's latches CAPTURE_STALL and stays stopped;
a timer that has not counted down, or is frozen by HELD or by a run on the card slot, expires nothing (R100, R101, R111; log 3). -/
def Obligations.SessionTimerExpiries : Prop :=
  ∀ s : State,
    (∀ (st : Station) (x : Session), s.sessions[st] = some x → x.state = .opened → x.idleTimer = some 0 →
      s.stations[st].state ≠ .held → (∀ j, s.job st = some j → j.slot ≠ .card) →
      exec (.cardIdleTimerExpiry st) s = .next (s.leaveOpen st x)) ∧
    (∀ st : Station,
      ((∀ x, s.sessions[st] = some x → x.state ≠ .opened ∨ x.idleTimer ≠ some 0) ∨ s.stations[st].state = .held ∨
        (∃ j, s.job st = some j ∧ j.slot = .card)) →
      exec (.cardIdleTimerExpiry st) s = .next s) ∧
    (s.stallTimer = some 0 →
      exec .captureStallTimingExpiry s = .next { s with stallTimer := none, latched := s.latched ||| 0x00000040#32 }) ∧
    (s.stallTimer ≠ some 0 → exec .captureStallTimingExpiry s = .next s)

/-! ### The account table -/

/-- ACCT_CREATE: the refusals in their order (R14), and the record it puts into the house table at its place in number order, with an ADJUST
record for an initial balance that is not 0 (R15, R21). -/
def Obligations.AcctCreate : Prop :=
  ∀ (s : State) (f : AcctCreateFields), s.deaf .m = false →
    let h := s.handOn .m
    let answered (t : State) (r : Response) : Prop := exec (.acctCreate .m (.of f)) s = .next (t.respond .m r)
    let limit : Nat := if f.kind.toNat = 1 then 0 else f.limit.toNat
    let balance : Int := f.balance.toInt
    (f.number.toNat = 0 ∨ 0xFFFFFFEF < f.number.toNat ∨ (f.kind.toNat ≠ 1 ∧ f.kind.toNat ≠ 2) ∨ 3 < f.tier.toNat ∨ 10000000 < limit →
      answered h ⟨.badValue, []⟩) ∧
    (∀ (kind : AcctKind) (tier : Tier), 1 ≤ f.number.toNat → f.number.toNat ≤ 0xFFFFFFEF → f.kind.toNat = kind.code →
      f.tier.toNat = tier.val → limit ≤ 10000000 →
      (s.isRemote f.number = true → answered h ⟨.routed, []⟩) ∧
      (s.isRemote f.number = false →
        (s.houseRecord f.number ≠ none → answered h ⟨.duplicate, []⟩) ∧
        (s.houseRecord f.number = none →
          (512 ≤ s.house.length → answered h ⟨.tableFull, []⟩) ∧
          (s.house.length < 512 →
            (balance < -10000000 ∨ 99999999 < balance ∨ balance < -(limit : Int) → answered h ⟨.limit, []⟩) ∧
            (-10000000 ≤ balance → balance ≤ 99999999 → -(limit : Int) ≤ balance →
              (balance ≠ 0 → 256 - s.log.length ≤ s.reserved → answered h ⟨.logFull, []⟩) ∧
              (balance = 0 ∨ s.reserved < 256 - s.log.length →
                let record : HouseRecord :=
                  { number := f.number, kind := kind, tier := tier, state := .opened, limit := limit
                    maxRuns := min 8 f.maxRuns.toNat, credit := { balance := balance, held := 0, runList := [] } }
                let image : List Byte :=
                  be4 f.number.toNat ++ be1 1 ++ be1 kind.code ++ be1 tier.val ++ be1 1 ++ be4s balance ++ be4 limit ++ be4 0 ++
                    be4s (balance + limit) ++ be1 (min 8 f.maxRuns.toNat) ++ be1 0 ++
                    be2 (if balance = 0 then 0 else s.logNext)
                answered
                  { h with
                    house := insertHouse record s.house
                    log := if balance = 0 then s.log else
                        s.log ++ [{ seq := s.logNext, entry := .adjust f.number balance balance }]
                    logNext := if balance = 0 then s.logNext else if 65535 ≤ s.logNext then 1 else s.logNext + 1 }
                  ⟨.ok, image⟩)))))) ∧
    (∀ (record : HouseRecord) (house : List HouseRecord), house.Pairwise (fun x y => x.number.toNat < y.number.toNat) →
      (∀ x ∈ house, x.number ≠ record.number) →
      (insertHouse record house).Pairwise (fun x y => x.number.toNat < y.number.toNat) ∧
        (∀ x, x ∈ insertHouse record house ↔ x = record ∨ x ∈ house))

/-- ACCT_UPDATE: the refusals in their order (R16), and the record with every masked field applied together, with an ADJUST record for a
delta (R17, R21). -/
def Obligations.AcctUpdate : Prop :=
  ∀ (s : State) (f : AcctUpdateFields), s.deaf .m = false →
    let h := s.handOn .m
    let answered (t : State) (r : Response) : Prop := exec (.acctUpdate .m (.of f)) s = .next (t.respond .m r)
    (f.number.toNat = 0 ∨ 0xFFFFFFF8 ≤ f.number.toNat → answered h ⟨.badValue, []⟩) ∧
    (0xFFFFFFF0 ≤ f.number.toNat → f.number.toNat ≤ 0xFFFFFFF7 → answered h ⟨.notLocal, []⟩) ∧
    (1 ≤ f.number.toNat → f.number.toNat ≤ 0xFFFFFFEF →
      (s.isRemote f.number = true → answered h ⟨.notLocal, []⟩) ∧
      (s.isRemote f.number = false →
        (s.houseRecord f.number = none → answered h ⟨.notFound, []⟩) ∧
        (∀ r, s.houseRecord f.number = some r →
          let masked (i : Nat) : Prop := f.mask.getLsbD i = true
          let delta : Int := if f.mask.getLsbD 4 = true then f.delta.toInt else 0
          let limit : Nat := if f.mask.getLsbD 1 = true then (if r.kind = .prepaid then 0 else f.limit.toNat) else r.limit
          let maxRuns : Nat := if f.mask.getLsbD 2 = true then min 8 f.maxRuns.toNat else r.maxRuns
          let balance : Int := r.credit.balance + delta
          let badTier : Prop := masked 0 ∧ 3 < f.tier.toNat
          let badState : Prop := masked 3 ∧ f.state.toNat ≠ 1 ∧ f.state.toNat ≠ 2
          let badLimit : Prop := masked 1 ∧ 10000000 < limit
          (badTier ∨ badState ∨ badLimit → answered h ⟨.badValue, []⟩) ∧
          (¬ badTier → ¬ badState → ¬ badLimit →
            (masked 2 → maxRuns ≠ 0 → maxRuns < r.credit.runList.length → answered h ⟨.conflict, []⟩) ∧
            (¬ masked 2 ∨ maxRuns = 0 ∨ r.credit.runList.length ≤ maxRuns →
              (balance < -10000000 ∨ 99999999 < balance → answered h ⟨.limit, []⟩) ∧
              (-10000000 ≤ balance → balance ≤ 99999999 →
                (masked 1 ∨ delta ≠ 0 → balance - r.credit.held < -(limit : Int) → answered h ⟨.insufficient, []⟩) ∧
                ((¬ masked 1 ∧ delta = 0) ∨ -(limit : Int) ≤ balance - r.credit.held →
                  (delta ≠ 0 → 256 - s.log.length ≤ s.reserved → answered h ⟨.logFull, []⟩) ∧
                  (delta = 0 ∨ s.reserved < 256 - s.log.length → ∀ (tier : Tier) (state : AcctState),
                    tier.val = (if f.mask.getLsbD 0 = true then f.tier.toNat else r.tier.val) →
                    state.code = (if f.mask.getLsbD 3 = true then f.state.toNat else r.state.code) →
                    let record : HouseRecord :=
                      { r with
                        tier := tier, limit := limit, maxRuns := maxRuns, state := state
                        credit := { r.credit with balance := balance } }
                    answered
                      { h with
                        house := s.house.map (fun x => if x.number = r.number then record else x)
                        log := if delta = 0 then s.log else
                            s.log ++ [{ seq := s.logNext, entry := .adjust r.number delta balance }]
                        logNext := if delta = 0 then s.logNext else if 65535 ≤ s.logNext then 1 else s.logNext + 1 }
                      ⟨.ok, record.image.bytes (if delta = 0 then 0 else s.logNext)⟩))))))))

/-- ACCT_READ answers the image of the record a number resolves to, NOT_FOUND where it resolves to nothing and BAD_VALUE for a number that
names nothing (R1, R13, R18); ACCT_NEXT answers the image of the house record with the least number greater than the one carried, END where
there is none (R19). Neither changes anything. -/
def Obligations.AcctReadAndNext : Prop :=
  (∀ (s : State) (n : Word), s.deaf .m = false →
    let answered (r : Response) : Prop := exec (.acctRead .m (.of n)) s = .next ((s.handOn .m).respond .m r)
    let image (slot kind : Nat) (tier : Tier) (state limit maxRuns : Nat) (c : Credit) : Response :=
      ⟨.ok, be4 n.toNat ++ be1 slot ++ be1 kind ++ be1 tier.val ++ be1 state ++ be4s c.balance ++ be4 limit ++ be4 c.held ++
        be4s (c.balance + limit - c.held) ++ be1 maxRuns ++ be1 c.runList.length ++ be2 0 ++
        c.runList.flatMap (fun st => be1 st.val)⟩
    (n.toNat = 0 ∨ 0xFFFFFFF8 ≤ n.toNat → answered ⟨.badValue, []⟩) ∧
    (∀ st : Station, n.toNat = 0xFFFFFFF0 + st.val →
      (s.cards[st] = none → answered ⟨.notFound, []⟩) ∧
      (∀ c x, s.cards[st] = some c → s.sessions[st] = some x → answered (image 2 0 x.tier 0 0 0 c))) ∧
    (1 ≤ n.toNat → n.toNat ≤ 0xFFFFFFEF →
      (s.isRemote n = true →
        (s.mirrorOf n = none → answered ⟨.notFound, []⟩) ∧
        (∀ m, s.mirrorOf n = some m →
          answered (image 3 0 m.tier (match m.state with | .pending => 3 | .active => 4) 0 0 m.credit))) ∧
      (s.isRemote n = false →
        (s.houseRecord n = none → answered ⟨.notFound, []⟩) ∧
        (∀ r, s.houseRecord n = some r →
          answered (image 1 (match r.kind with | .prepaid => 1 | .postpaid => 2) r.tier
            (match r.state with | .opened => 1 | .frozen => 2) r.limit r.maxRuns r.credit))))) ∧
  (∀ (s : State) (n : Word), s.deaf .m = false → s.house.Pairwise (fun x y => x.number.toNat < y.number.toNat) →
    let answered (r : Response) : Prop := exec (.acctNext .m (.of n)) s = .next ((s.handOn .m).respond .m r)
    ((∀ x ∈ s.house, x.number.toNat ≤ n.toNat) → answered ⟨.endOfTable, []⟩) ∧
    (∀ r ∈ s.house, n.toNat < r.number.toNat → (∀ x ∈ s.house, n.toNat < x.number.toNat → r.number.toNat ≤ x.number.toNat) →
      answered ⟨.ok, r.image.bytes 0⟩))

/-- ACCT_DELETE: the refusals in their order, and the record out of the house table with no log record (R20). -/
def Obligations.AcctDelete : Prop :=
  ∀ (s : State) (n : Word), s.deaf .m = false →
    let h := s.handOn .m
    let answered (t : State) (r : Response) : Prop := exec (.acctDelete .m (.of n)) s = .next (t.respond .m r)
    (n.toNat = 0 ∨ 0xFFFFFFF8 ≤ n.toNat → answered h ⟨.badValue, []⟩) ∧
    (0xFFFFFFF0 ≤ n.toNat → n.toNat ≤ 0xFFFFFFF7 → answered h ⟨.notLocal, []⟩) ∧
    (1 ≤ n.toNat → n.toNat ≤ 0xFFFFFFEF →
      (s.isRemote n = true → answered h ⟨.notLocal, []⟩) ∧
      (s.isRemote n = false →
        (s.houseRecord n = none → answered h ⟨.notFound, []⟩) ∧
        (∀ r, s.houseRecord n = some r →
          (r.credit.runList ≠ [] → answered h ⟨.busy, []⟩) ∧
          (r.credit.runList = [] → r.credit.balance ≠ 0 → answered h ⟨.balance, []⟩) ∧
          (r.credit.runList = [] → r.credit.balance = 0 →
            answered { h with house := s.house.filter (fun x => x.number != n) } ⟨.ok, []⟩))))

/-! ### The price banks -/

/-- PRICE_WRITE: BAD_VALUE for a bank, tier, item or item values out of range, BANK_BUSY for the active bank and for one with users (R26,
R27), and otherwise the values stored, clamped, with the bank's generation 0 (R28); the answer is the item as it then stands (log 7). -/
def Obligations.PriceWriteStores : Prop :=
  ∀ (s : State) (f : PriceWriteFields), s.deaf .m = false → priceWriteLengthOk f.values.length = true →
    let h := s.handOn .m
    let answered (t : State) (r : Response) : Prop := exec (.priceWrite .m (.of f)) s = .next (t.respond .m r)
    (f.bank.toNat ≠ 1 → f.bank.toNat ≠ 2 → answered h ⟨.badValue, []⟩) ∧
    (3 < f.tier.toNat → answered h ⟨.badValue, []⟩) ∧
    (f.item.toNat ≠ 1 → f.item.toNat ≠ 2 → f.item.toNat ≠ 3 → answered h ⟨.badValue, []⟩) ∧
    (∀ (name : BankName) (tier : Tier), f.bank.toNat = name.code → f.tier.toNat = tier.val →
      let bank := s.bank name
      let busy : Prop := s.active = some name ∨ bank.users ≠ 0
      let stored (prices : TierPrices) : State :=
        { h with
          bankA := if name = .a then { bank with tiers := bank.tiers.set tier prices, generation := 0 } else s.bankA
          bankB := if name = .b then { bank with tiers := bank.tiers.set tier prices, generation := 0 } else s.bankB }
      (∀ (start : Byte) (values : List Half), f.item.toNat = 1 → f.values = start :: values.flatMap (fun v => be2 v.toNat) →
        (15 < start.toNat ∨ values = [] ∨ 16 < start.toNat + values.length → answered h ⟨.badValue, []⟩) ∧
        (start.toNat ≤ 15 → values ≠ [] → start.toNat + values.length ≤ 16 →
          (busy → answered h ⟨.bankBusy, []⟩) ∧
          (¬ busy → ∀ prices : TierPrices,
            prices.back = bank.tiers[tier].back → prices.breaks = bank.tiers[tier].breaks →
            (∀ k : Fin 16, prices.base[k] =
              if h : start.toNat ≤ k.val ∧ k.val < start.toNat + values.length then
                (values[k.val - start.toNat]'(by omega)).toNat
              else bank.tiers[tier].base[k]) →
            answered (stored prices) ⟨.ok, f.values⟩))) ∧
      (∀ percent : Byte, f.item.toNat = 2 → f.values = [percent] →
        (busy → answered h ⟨.bankBusy, []⟩) ∧
        (¬ busy →
          answered (stored { bank.tiers[tier] with back := min 100 percent.toNat }) ⟨.ok, be1 (min 100 percent.toNat)⟩)) ∧
      (∀ t1 d1 t2 d2 t3 d3 t4 d4 : Half, f.item.toNat = 3 →
        f.values = [t1, d1, t2, d2, t3, d3, t4, d4].flatMap (fun v => be2 v.toNat) →
        let clamped (t d : Half) : Break := { threshold := t.toNat, discount := min 1000 d.toNat }
        (9999 < t1.toNat ∨ 9999 < t2.toNat ∨ 9999 < t3.toNat ∨ 9999 < t4.toNat → answered h ⟨.badValue, []⟩) ∧
        (t1.toNat ≤ 9999 → t2.toNat ≤ 9999 → t3.toNat ≤ 9999 → t4.toNat ≤ 9999 →
          (busy → answered h ⟨.bankBusy, []⟩) ∧
          (¬ busy →
            answered
              (stored
                { bank.tiers[tier] with breaks := #v[clamped t1 d1, clamped t2 d2, clamped t3 d3, clamped t4 d4] })
              ⟨.ok, be2 t1.toNat ++ be2 (min 1000 d1.toNat) ++ be2 t2.toNat ++ be2 (min 1000 d2.toNat) ++ be2 t3.toNat ++
                be2 (min 1000 d3.toNat) ++ be2 t4.toNat ++ be2 (min 1000 d4.toNat)⟩))) ∧
      (f.item.toNat = 1 → f.values.length % 2 = 0 → answered h ⟨.badValue, []⟩) ∧
      (f.item.toNat = 2 → f.values.length ≠ 1 → answered h ⟨.badValue, []⟩) ∧
      (f.item.toNat = 3 → f.values.length ≠ 16 → answered h ⟨.badValue, []⟩))

/-- PRICE_READ answers a bank's role, generation and users, the generation counter and one tier's prices, and changes nothing (R29).
PRICE_SWAP: the refusals in their order (R30), and otherwise the generation counter's step, its stamp on the bank, the active pointer and
the SWAP record, with nothing of any run changed (R31). -/
def Obligations.PriceReadAndSwap : Prop :=
  (∀ (s : State) (f : PriceReadFields), s.deaf .m = false →
     let answered (r : Response) : Prop := exec (.priceRead .m (.of f)) s = .next ((s.handOn .m).respond .m r)
     ((f.bank.toNat ≠ 1 ∧ f.bank.toNat ≠ 2) ∨ 3 < f.tier.toNat → answered ⟨.badValue, []⟩) ∧
     (∀ (name : BankName) (tier : Tier), f.bank.toNat = name.code → f.tier.toNat = tier.val →
       answered
         ⟨.ok, be1 (if s.active = none then 0 else if s.active = some name then 1 else 2) ++ be2 (s.bank name).generation ++
           be1 (s.bank name).users ++ be2 s.genCounter ++ (s.bank name).tiers[tier].base.toList.flatMap be2 ++
           be1 (s.bank name).tiers[tier].back ++
           (s.bank name).tiers[tier].breaks.toList.flatMap (fun v => be2 v.threshold ++ be2 v.discount)⟩)) ∧
  (∀ (s : State) (x : Byte), s.deaf .m = false →
     let h := s.handOn .m
     let answered (t : State) (r : Response) : Prop := exec (.priceSwap .m (.of x)) s = .next (t.respond .m r)
     (x.toNat ≠ 1 → x.toNat ≠ 2 → answered h ⟨.badValue, []⟩) ∧
     (∀ name : BankName, x.toNat = name.code →
       (s.active = some name → answered h ⟨.sameBank, []⟩) ∧
       (s.active ≠ some name → 256 - s.log.length ≤ s.reserved → answered h ⟨.logFull, []⟩) ∧
       (s.active ≠ some name → s.reserved < 256 - s.log.length →
         let generation := if 65535 ≤ s.genCounter then 1 else s.genCounter + 1
         answered
           { h with
             genCounter := generation
             bankA := if name = .a then { s.bankA with generation := generation } else s.bankA
             bankB := if name = .b then { s.bankB with generation := generation } else s.bankB
             active := some name
             log := s.log ++ [{ seq := s.logNext, entry := .swap name generation }]
             logNext := if 65535 ≤ s.logNext then 1 else s.logNext + 1 }
           ⟨.ok, be1 name.code ++ be2 generation ++ be2 s.logNext⟩)))

/-- A bank that is active, or that has users, keeps its prices through every command but the two resets; line activity, which may carry
several frames, is left out and covered by the frames it carries (R26). -/
def Obligations.BanksInUseAreNeverWritten : Prop :=
  ∀ (c : Instr) (s t : State) (name : BankName), c.resets = false → c.isLineActivity = false → exec c s = .next t →
    (s.active = some name ∨ (s.bank name).users ≠ 0) → (t.bank name).tiers = (s.bank name).tiers

/-! ### Referrals -/

/-- REFERRAL_FETCH marks the oldest WAITING referral FETCHED and answers with it, a TOPUP with its mirror's balance, held total and run
list length; NONE where none is WAITING (R123). That the answer's image holds the state FETCHED is the model's reading (log 11). -/
def Obligations.ReferralFetchMarks : Prop :=
  ∀ s : State, s.deaf .m = false →
    let h := s.handOn .m
    ((∀ r ∈ s.referrals, r.state ≠ .waiting) → exec (.referralFetch .m (.of ())) s = .next (h.respond .m ⟨.none, []⟩)) ∧
    (∀ (before rest : List Referral) (r : Referral), s.referrals = before ++ r :: rest → (∀ x ∈ before, x.state ≠ .waiting) →
      r.state = .waiting → (s.referrals.map (fun x => x.id)).Nodup →
      let image : List Byte :=
        be1 r.id ++ be1 r.kind.code ++ be1 r.station.val ++ be4 r.account.toNat ++ be4 r.requested ++ be1 2 ++ be1 r.timeout
      let marked : State := { h with referrals := before ++ { r with state := .fetched } :: rest }
      (r.kind = .opening → exec (.referralFetch .m (.of ())) s = .next (marked.respond .m ⟨.ok, image⟩)) ∧
      (∀ m, r.kind = .topup → s.mirrorOf r.account = some m →
        exec (.referralFetch .m (.of ())) s = .next
          (marked.respond .m
            ⟨.ok, image ++ be4s m.credit.balance ++ be4 m.credit.held ++ be1 m.credit.runList.length⟩)))

/-- REFERRAL_LIST answers the number of referrals and each of them, oldest first, and changes nothing (R124); under the law of the runs and
the queue, which every step keeps, that number is at most 8. -/
def Obligations.ReferralListAnswers : Prop :=
  (∀ s : State, s.deaf .m = false →
    exec (.referralList .m (.of ())) s = .next
      ((s.handOn .m).respond .m
        ⟨.ok, be1 s.referrals.length ++
          s.referrals.flatMap (fun r =>
            be1 r.id ++ be1 (match r.kind with | .opening => 1 | .topup => 2) ++ be1 r.station.val ++ be4 r.account.toNat ++
              be4 r.requested ++ be1 (match r.state with | .waiting => 1 | .fetched => 2) ++ be1 r.timeout)⟩)) ∧
  (∀ s : State, s.SheetLaw → s.referrals.length ≤ 8)

/-- REFERRAL_REPLY: the refusals (R125); a reply takes its referral out of the queue; a GRANT of an OPEN referral makes the mirror ACTIVE
and the run ACTIVE, a DENY returns the run to IDLE (R52, R126); a GRANT of a TOPUP raises the mirror's balance, stopping at 99,999,999, and
a DENY of one changes nothing more (R127). The timeout of a referral takes it out of the queue; an OPEN one returns its run to IDLE with the
outcome TIMED_OUT, a TOPUP changes nothing more (R128); a referral that has time left does not time out (log 3), and that REFERRAL_TIMEOUT
names an id, which changes nothing where no referral holds it, is the model's choice (log 22). -/
def Obligations.ReferralRepliesAndTimeouts : Prop :=
  (∀ (s : State) (f : ReferralReplyFields), s.deaf .m = false →
     let h := s.handOn .m
     let answered (t : State) (r : Response) : Prop := exec (.referralReply .m (.of f)) s = .next (t.respond .m r)
     let grant : Prop := f.decision.toNat = 1
     let deny : Prop := f.decision.toNat = 2
     (f.id.toNat = 0 ∨ (¬ grant ∧ ¬ deny) ∨ (grant ∧ (f.amount.toNat = 0 ∨ 1000000 < f.amount.toNat ∨ 3 < f.tier.toNat)) →
       answered h ⟨.badValue, []⟩) ∧
     (f.id.toNat ≠ 0 → (deny ∨ (grant ∧ 1 ≤ f.amount.toNat ∧ f.amount.toNat ≤ 1000000 ∧ f.tier.toNat ≤ 3)) →
       ((∀ r ∈ s.referrals, r.id ≠ f.id.toNat) → answered h ⟨.tooLate, []⟩) ∧
       (∀ r, s.referrals.find? (fun x => x.id == f.id.toNat) = some r →
         let removed : State := { h with referrals := s.referrals.filter (fun x => x.id != r.id) }
         let head : List Byte := be1 r.id ++ be1 r.kind.code ++ be1 r.station.val ++ be4 r.account.toNat
         (∀ (j : Job) (m : Mirror) (tier : Tier), r.kind = .opening → grant → s.job r.station = some j →
           s.mirrorOf r.account = some m → f.tier.toNat = tier.val →
           answered
             { removed with
               mirrors := s.mirrors.map (fun x =>
                 if x.number = r.account then
                   { x with state := .active, tier := tier, credit := { x.credit with balance := f.amount.toNat } }
                 else x)
               runs := s.runs.set r.station
                 { job := some { j with state := .active, tier := tier, idleTimer := some s.params.runIdle }
                   lastOutcome := .granted } }
             ⟨.ok, head ++ be1 1 ++ be4s f.amount.toNat⟩) ∧
         (∀ j, r.kind = .opening → deny → s.job r.station = some j →
           answered (removed.returnJob r.station j .denied) ⟨.ok, head ++ be1 2 ++ be4s 0⟩) ∧
         (∀ m, r.kind = .topup → grant → s.mirrorOf r.account = some m →
           answered
             { removed with
               mirrors := s.mirrors.map (fun x =>
                 if x.number = r.account then
                   { x with credit := { x.credit with balance := min (x.credit.balance + f.amount.toNat) 99999999 } }
                 else x) }
             ⟨.ok, head ++ be1 1 ++ be4s (min (m.credit.balance + f.amount.toNat) 99999999)⟩) ∧
         (r.kind = .topup → deny → answered removed ⟨.ok, head ++ be1 2 ++ be4s 0⟩)))) ∧
  (∀ (s : State) (id : Nat),
     ((∀ r ∈ s.referrals, r.id ≠ id) → exec (.referralTimeout id) s = .next s) ∧
     (∀ r, s.referrals.find? (fun x => x.id == id) = some r →
       let removed : State := { s with referrals := s.referrals.filter (fun x => x.id != id) }
       (r.timeout ≠ 0 → exec (.referralTimeout id) s = .next s) ∧
       (∀ j, r.timeout = 0 → r.kind = .opening → s.job r.station = some j →
         exec (.referralTimeout id) s = .next (removed.returnJob r.station j .timedOut)) ∧
       (r.timeout = 0 → r.kind = .topup → exec (.referralTimeout id) s = .next removed)))

/-! ### The settlement log and the meters -/

/-- LOG_READ answers whole records from the head, at most four and at most 119 bytes of images, and changes nothing; EMPTY for an empty log;
the images of the five kinds of record are those of section 9.4, of 32, 20, 10 + 13 × k, 15 and 6 bytes, at most 49, so at least one is
carried (R141). LOG_RELEASE removes the record with the number carried and all before it, and answers how many, the occupied count and the
new head's number; NOT_FOUND where no record holds the number (R142). LOG_STATUS answers the log's counts, numbers and level conditions and
changes nothing (R143). That LOG_RELEASE's answer carries the occupied count in two bytes is the model's choice (log 24). -/
def Obligations.LogReadReleaseAndStatus : Prop :=
  (∀ s : State, s.deaf .m = false →
     (s.log = [] → exec (.logRead .m (.of ())) s = .next ((s.handOn .m).respond .m ⟨.empty, []⟩)) ∧
     (∀ (carried rest : List LogRecord), s.log = carried ++ rest → s.log ≠ [] →
       carried.length ≤ 4 → (carried.flatMap LogRecord.bytes).length ≤ 119 →
       (∀ r, rest.head? = some r → carried.length = 4 ∨ 119 < ((carried ++ [r]).flatMap LogRecord.bytes).length) →
       exec (.logRead .m (.of ())) s = .next
         ((s.handOn .m).respond .m ⟨.ok, be1 carried.length ++ carried.flatMap LogRecord.bytes⟩)) ∧
     (∀ r : LogRecord, (∀ e, r.entry = .session e → e.auths.length ≤ 3) → r.bytes.length ≤ 49)) ∧
  (∀ seq : Nat,
     let image (entry : LogEntry) (kind : Nat) (fields : List Byte) (length : Nat) : Prop :=
       ({ seq := seq, entry := entry } : LogRecord).bytes = be1 kind ++ be2 seq ++ fields ∧
         ({ seq := seq, entry := entry } : LogRecord).bytes.length = length
     (∀ e : RunCloseEntry,
       image (.runClose e) 1
         (be1 e.station.val ++ be4 e.account.toNat ++ be1 (match e.slot with | .house => 1 | .card => 2 | .mirror => 3) ++
           be1 e.tier.val ++ be2 e.generation ++
           be1 (match e.reason with
             | .normal => 1 | .idle => 2 | .jamTimeout => 3 | .linkLost => 4 | .console => 5 | .teardown => 6) ++
           be2 e.delivered ++ be2 e.credited ++ be2 e.disputed ++ be1 e.jams ++ be4 e.charge ++ be4 e.settled ++ be4 e.final) 32) ∧
     (∀ e : RunInterimEntry,
       image (.runInterim e) 2
         (be1 e.station.val ++ be4 e.account.toNat ++ be2 e.delivered ++ be4 e.amount ++ be4 e.settled ++ be2 e.generation) 20) ∧
     (∀ e : SessionEntry,
       image (.session e) 3
         (be1 e.station.val ++ be1 e.tier.val ++ be1 e.auths.length ++ be4 e.spent ++
           e.auths.flatMap (fun a =>
             be4 a.reference.toNat ++ be4 a.amount ++ be4 (a.capture.getD 0) ++
               be1 (match a.outcome with | .pending => 0 | .done => 1 | .failed => 2 | .abandoned => 3)))
         (10 + 13 * e.auths.length)) ∧
     (∀ (account : Word) (delta balance : Int),
       image (.adjust account delta balance) 4 (be4 account.toNat ++ be4s delta ++ be4s balance) 15) ∧
     (∀ (bank : BankName) (generation : Nat),
       image (.swap bank generation) 5 (be1 (match bank with | .a => 1 | .b => 2) ++ be2 generation) 6)) ∧
  (∀ s : State, s.deaf .m = false →
     (∀ seq : Half,
       ((∀ r ∈ s.log, r.seq ≠ seq.toNat) →
         exec (.logRelease .m (.of seq)) s = .next ((s.handOn .m).respond .m ⟨.notFound, []⟩)) ∧
       (∀ (before rest : List LogRecord) (r : LogRecord), s.log = before ++ r :: rest → r.seq = seq.toNat →
         (∀ x ∈ before, x.seq ≠ seq.toNat) →
         exec (.logRelease .m (.of seq)) s = .next
           (State.respond { s.handOn .m with log := rest } .m
             ⟨.ok, be2 (before.length + 1) ++ be2 rest.length ++
               be2 (match rest.head? with | none => 0 | some x => x.seq)⟩))) ∧
     exec (.logStatus .m (.of ())) s = .next
       ((s.handOn .m).respond .m
         ⟨.ok, be2 s.log.length ++ be2 (256 - s.log.length) ++ be1 s.reserved ++
           be1 (allStations.countP (fun st => (s.job st).isSome)) ++ be1 (allStations.countP (fun st => s.sessions[st].isSome)) ++
           be2 (match s.log.head? with | none => 0 | some r => r.seq) ++
           be2 (match s.log.getLast? with | none => 0 | some r => r.seq) ++ be2 s.logNext ++
           be1 ((if 1 ≤ s.log.length then 1 else 0) + (if 64 ≤ s.log.length then 2 else 0) +
             (if 128 ≤ s.log.length then 4 else 0) + (if 192 ≤ s.log.length then 8 else 0))⟩))

/-- METER_READ answers a station's twenty meters in order and changes nothing, in every station state; BAD_VALUE above station 7 (R147). -/
def Obligations.MeterReadAnswers : Prop :=
  ∀ (s : State) (x : Byte), s.deaf .m = false →
    let answered (r : Response) : Prop := exec (.meterRead .m (.of x)) s = .next ((s.handOn .m).respond .m r)
    (7 < x.toNat → answered ⟨.badValue, []⟩) ∧
    (∀ st : Station, x.toNat = st.val →
      answered
        ⟨.ok, be1 st.val ++ s.meters[st].kinds.toList.flatMap be4 ++ be4 s.meters[st].duplex ++ be4 s.meters[st].jam ++
          be4 s.meters[st].credited ++ be4 s.meters[st].disputed⟩)

/-! ### Links and stations -/

/-- LINK_STATS answers a link's counters and the last-violation record as they stood, the request itself counted, and with its clear flag
zeroes the counters, arms the link and empties the record (R158); BAD_VALUE for another link. An empty record reads 0 and 0 (log 16). -/
def Obligations.LinkStatsAnswers : Prop :=
  ∀ (s : State) (f : LinkStatsFields), s.deaf .m = false →
    let h := s.handOn .m
    ((7 < f.link.toNat ∧ f.link ≠ 0x20 ∧ f.link ≠ 0x30) →
      exec (.linkStats .m (.of f)) s = .next (h.respond .m ⟨.badValue, []⟩)) ∧
    (∀ link : Link, ((∃ n : Station, link = .c n ∧ f.link.toNat = n.val) ∨ (link = .p ∧ f.link = 0x20) ∨ (link = .m ∧ f.link = 0x30)) →
      let violation : List Byte := match s.io.lastViolation with | none => [0, 0] | some v => [v.link.address, v.code]
      let answer : Response :=
        ⟨.ok, be2 (h.port link).accepted ++ be2 (h.port link).refused ++ be2 (h.port link).discarded ++ violation⟩
      let cleared : State := h.setPort link { h.port link with accepted := 0, refused := 0, discarded := 0, armed := true }
      (f.clear = 0 → exec (.linkStats .m (.of f)) s = .next (h.respond .m answer)) ∧
      (f.clear ≠ 0 →
        exec (.linkStats .m (.of f)) s = .next
          (State.respond { cleared with io := { cleared.io with lastViolation := none } } .m answer)))

/-- The six actions of STATION_SET (R161, R162): BAD_VALUE above station 7, for NONE without a flags part and for an action code outside the
six (log 14); STATE, changing nothing, where the action does not apply; BUSY for OFF with work open; and otherwise the station's record,
with the flags part applied, and an answer that carries it. -/
def Obligations.StationSetActions : Prop :=
  ∀ (s : State) (station : Byte) (flags : Option Byte), s.deaf .m = false →
    let h := s.handOn .m
    let action (i : Link → Body StationSetFields → Instr) (o : Host.Outcome State Fault Refusal) : Prop :=
      exec (i .m (.of ⟨station, flags⟩)) s = o
    let none' (code : Byte) (o : Host.Outcome State Fault Refusal) : Prop :=
      exec (.stationSetNone .m (.of ⟨station, code, flags⟩)) s = o
    let refused (code : RespCode) : Host.Outcome State Fault Refusal := .next (h.respond .m ⟨code, []⟩)
    (7 < station.toNat →
      (∀ code, none' code (refused .badValue)) ∧ action .stationSetEnable (refused .badValue) ∧
        action .stationSetDisable (refused .badValue) ∧ action .stationSetHold (refused .badValue) ∧
        action .stationSetRelease (refused .badValue) ∧ action .stationSetOff (refused .badValue)) ∧
    (∀ st : Station, station.toNat = st.val →
      let before := s.stations[st]
      let r : StationRecord :=
        { before with
          flags := match flags with
            | none => before.flags
            | some x => { accountRuns := x.getLsbD 0, cardRuns := x.getLsbD 1, remoteRuns := x.getLsbD 2 } }
      let set (r : StationRecord) : Host.Outcome State Fault Refusal :=
        .next
          (State.respond { h with stations := s.stations.set st r } .m
            ⟨.ok, be1 r.state.code ++ be1 (match r.prior with | none => 0 | some .enabled => 1 | some .draining => 2) ++
              be1 ((if r.flags.accountRuns then 1 else 0) + (if r.flags.cardRuns then 2 else 0) +
                (if r.flags.remoteRuns then 4 else 0)) ++ be1 (if r.presence = .silent then 1 else 0)⟩)
      let idle : Prop := s.job st = none ∧ s.sessionOpen st = false
      let off (r : StationRecord) : StationRecord := { r with state := .off, prior := none, silence := none }
      (∀ code, flags = none ∨ code ≠ 0 → none' code (refused .badValue)) ∧
      (flags ≠ none → none' 0 (set r)) ∧
      (before.state = .off →
        action .stationSetEnable (set { r with state := .enabled, silence := some s.params.silence }) ∧
          action .stationSetDisable (refused .state) ∧ action .stationSetHold (refused .state) ∧
          action .stationSetRelease (refused .state) ∧ action .stationSetOff (refused .state)) ∧
      (before.state = .enabled →
        action .stationSetEnable (refused .state) ∧
          (idle → action .stationSetDisable (set { r with state := .off, silence := none })) ∧
          (¬ idle → action .stationSetDisable (set { r with state := .draining })) ∧
          action .stationSetHold (set { r with state := .held, prior := some .enabled }) ∧
          action .stationSetRelease (refused .state)) ∧
      (before.state = .draining →
        action .stationSetEnable (set { r with state := .enabled }) ∧ action .stationSetDisable (refused .state) ∧
          action .stationSetHold (set { r with state := .held, prior := some .draining }) ∧
          action .stationSetRelease (refused .state)) ∧
      (before.state = .held →
        action .stationSetEnable (refused .state) ∧ action .stationSetDisable (refused .state) ∧
          action .stationSetHold (refused .state) ∧
          (before.prior = some .enabled → action .stationSetRelease (set { r with state := .enabled, prior := none })) ∧
          (before.prior = some .draining → idle → action .stationSetRelease (set (off r))) ∧
          (before.prior = some .draining → ¬ idle →
            action .stationSetRelease (set { r with state := .draining, prior := none }))) ∧
      (before.state ≠ .off →
        (s.job st = none → s.sessions[st] = none → action .stationSetOff (set (off r))) ∧
          (s.job st ≠ none ∨ s.sessions[st] ≠ none → action .stationSetOff (refused .busy))))

/-- STATION_READ answers a station's record, its run context with the in-path count and charge, its run timers with their frozen marks, its
session state and its card slot's balance, and changes nothing (R165; the layout is the model's, log 9, and the credited count's two bytes,
log 24). -/
def Obligations.StationReadAnswers : Prop :=
  ∀ (s : State) (x : Byte), s.deaf .m = false →
    let answered (r : Response) : Prop := exec (.stationRead .m (.of x)) s = .next ((s.handOn .m).respond .m r)
    (7 < x.toNat → answered ⟨.badValue, []⟩) ∧
    (∀ st : Station, x.toNat = st.val →
      let r := s.stations[st]
      let record : List Byte :=
        be1 (match r.state with | .off => 0 | .enabled => 1 | .draining => 2 | .held => 3) ++
          be1 (match r.prior with | none => 0 | some .enabled => 1 | some .draining => 2) ++
          be1 ((if r.flags.accountRuns then 1 else 0) + (if r.flags.cardRuns then 2 else 0) + (if r.flags.remoteRuns then 4 else 0)) ++
          be1 (match r.presence with | .present => 0 | .silent => 1) ++ be2 (r.silence.getD 0)
      let lastOutcome : Nat :=
        match s.runs[st].lastOutcome with | .none => 0 | .granted => 1 | .denied => 2 | .timedOut => 3 | .cancelled => 4
      let path : List Byte :=
        be1 lastOutcome ++ be1 s.paths[st].length ++ be4 (s.paths[st].map (fun e => e.price)).sum
      let timer (t : Option Nat) (frozen : Bool) : List Byte := be2 (t.getD 0) ++ be1 (if t.isSome && frozen then 1 else 0)
      let held : Bool := r.state == .held
      let silent : Bool := r.presence == .silent
      let jamAndLost : List Byte := timer s.jamTimers[st] (held || silent) ++ timer s.lostTimers[st] held
      let session : List Byte :=
        be1 (match s.sessions[st] with
          | none => 0
          | some y => match y.state with | .opened => 1 | .closing => 2 | .capturing => 3) ++
          be4s (match s.cards[st] with | none => 0 | some c => c.balance)
      (s.job st = none →
        answered ⟨.ok, record ++ (List.replicate 57 0 ++ path) ++ (timer none false ++ jamAndLost) ++ session⟩) ∧
      (∀ j, s.job st = some j →
        let burst : List Byte :=
          match j.lastBurst with
          | none => List.replicate 12 0
          | some b =>
            be2 b.firstSeq ++ be1 b.granted ++
              be1 (match b.stop with | .none => 0 | .runLimit => 1 | .pathFull => 2 | .noCredit => 3 | .frozen => 4) ++
              be4 b.hold ++ be4 b.charge
        let context : List Byte :=
          be1 (match j.state with | .referral => 1 | .active => 2 | .starved => 3 | .jammed => 4 | .finishing => 5) ++
            be4 j.account.toNat ++ be1 (match j.slot with | .house => 1 | .card => 2 | .mirror => 3) ++ be1 j.tier.val ++
            be1 (match j.bank with | .a => 1 | .b => 2) ++ be2 j.generation ++ be1 j.jamAllowance ++
            be1 j.template.media.val ++ be1 (match j.template.colour with | .mono => 0 | .colour => 1) ++
            be1 (match j.template.sides with | .simplex => 0 | .duplex => 1) ++
            be2 (j.granted + 1) ++ burst ++ be4 j.charge ++ be4 j.settled ++ be4 j.hold ++ be2 j.granted ++ be2 j.delivered ++
            be2 j.credited ++ be2 j.disputed ++ be2 j.netMono ++ be2 j.netColour ++ be1 j.jams ++ be2 j.sinceInterim ++
            be2 (j.idleTimer.getD 0)
        answered
          ⟨.ok, record ++ (context ++ path) ++ (timer j.idleTimer (held || silent || j.state == .jammed) ++ jamAndLost) ++
            session⟩))

/-! ### Console services -/

/-- ATTN_EXCHANGE answers the latched set and the live set as they stood and clears the latched events of the mask (R169, R170); a line is
asserted exactly while a member of either set is selected by its mask (R171). -/
def Obligations.AttentionAndItsLines : Prop :=
  (∀ (s : State) (mask : Word), s.deaf .m = false →
    let h := s.handOn .m
    let live : Word :=
      (if 1 ≤ s.log.length then 0x00001000#32 else 0) ||| (if 64 ≤ s.log.length then 0x00002000#32 else 0) |||
        (if 128 ≤ s.log.length then 0x00004000#32 else 0) ||| (if 192 ≤ s.log.length then 0x00008000#32 else 0) |||
        (if ∃ r ∈ s.referrals, r.state = .waiting then 0x00010000#32 else 0) |||
        (if s.captureQueue ≠ [] then 0x00020000#32 else 0)
    s.liveSet = live ∧
    exec (.attnExchange .m (.of mask)) s = .next
      (State.respond { h with latched := s.latched &&& ~~~mask } .m ⟨.ok, be4 s.latched.toNat ++ be4 live.toNat⟩)) ∧
  (∀ s : State,
    (s.attn = true ↔ ∃ i < 32, (s.latched ||| s.liveSet).getLsbD i = true ∧ s.params.attnMask.getLsbD i = true) ∧
    (s.srq = true ↔ ∃ i < 32, (s.latched ||| s.liveSet).getLsbD i = true ∧ s.params.srqMask.getLsbD i = true))

/-- SET_PARAM stores a value clamped to its parameter's range and answers with it (R172, R173); the two route parameters are stored as
given, or refused CONFLICT where the new route would match a house account or miss a mirror in use (R117); BAD_VALUE for another number. -/
def Obligations.SetParamStores : Prop :=
  ∀ (s : State) (f : SetParamFields), s.deaf .m = false →
    let h := s.handOn .m
    let n := f.number.toNat
    let v := f.value.toNat
    let stored (p : Params) (now : Nat) : Prop :=
      exec (.setParam .m (.of f)) s = .next (State.respond { h with params := p } .m ⟨.ok, [f.number] ++ be4 now⟩)
    let refused (code : RespCode) : Prop := exec (.setParam .m (.of f)) s = .next (h.respond .m ⟨code, []⟩)
    let within (low high : Nat) : Nat := max low (min high v)
    let matches' (mask value x : Word) : Prop := 1 ≤ x.toNat ∧ x.toNat ≤ 0xFFFFFFEF ∧ mask ≠ 0 ∧ x &&& mask = value
    let conflict (mask value : Word) : Prop :=
      (∃ r ∈ s.house, matches' mask value r.number) ∨ (∃ m ∈ s.mirrors, ¬ matches' mask value m.number)
    (n = 0 ∨ 18 < n → refused .badValue) ∧
    (n = 1 → stored { s.params with holdStep := within 1 10000 } (within 1 10000)) ∧
    (n = 2 → stored { s.params with interimInterval := within 0 9999 } (within 0 9999)) ∧
    (n = 3 → stored { s.params with jamAllowance := within 0 255 } (within 0 255)) ∧
    (n = 4 → stored { s.params with jamTimer := within 10 3600 } (within 10 3600)) ∧
    (n = 5 → stored { s.params with runIdle := within 30 3600 } (within 30 3600)) ∧
    (n = 6 → stored { s.params with cardIdle := within 30 1800 } (within 30 1800)) ∧
    (n = 7 → stored { s.params with referralTimeout := within 1 60 } (within 1 60)) ∧
    (n = 8 → stored { s.params with referralOpen := within 1 100000 } (within 1 100000)) ∧
    (n = 9 → stored { s.params with silence := within 2 60 } (within 2 60)) ∧
    (n = 10 → stored { s.params with captureStall := within 10 600 } (within 10 600)) ∧
    (∀ entry tier : Fin 4, n = 11 + entry.val → tier.val = min 3 v →
      stored { s.params with cardMap := s.params.cardMap.set entry tier } (min 3 v)) ∧
    (n = 15 → conflict f.value s.params.routeValue → refused .conflict) ∧
    (n = 15 → ¬ conflict f.value s.params.routeValue → stored { s.params with routeMask := f.value } v) ∧
    (n = 16 → conflict s.params.routeMask f.value → refused .conflict) ∧
    (n = 16 → ¬ conflict s.params.routeMask f.value → stored { s.params with routeValue := f.value } v) ∧
    (n = 17 → stored { s.params with attnMask := f.value &&& 0x0003FFFF#32 } (f.value &&& 0x0003FFFF#32).toNat) ∧
    (n = 18 → stored { s.params with srqMask := f.value &&& 0x0003FFFF#32 } (f.value &&& 0x0003FFFF#32).toNat)

/-- GET_PARAM answers a parameter's number and the value it holds, BAD_VALUE for a number not in the table, and changes nothing (R174). -/
def Obligations.GetParamAnswers : Prop :=
  ∀ (s : State) (number : Byte), s.deaf .m = false →
    let answered (r : Response) : Prop := exec (.getParam .m (.of number)) s = .next ((s.handOn .m).respond .m r)
    let value (v : Nat) : Prop := answered ⟨.ok, [number] ++ be4 v⟩
    let n := number.toNat
    let p := s.params
    (n = 0 ∨ 18 < n → answered ⟨.badValue, []⟩) ∧ (n = 1 → value p.holdStep) ∧ (n = 2 → value p.interimInterval) ∧
    (n = 3 → value p.jamAllowance) ∧ (n = 4 → value p.jamTimer) ∧ (n = 5 → value p.runIdle) ∧ (n = 6 → value p.cardIdle) ∧
    (n = 7 → value p.referralTimeout) ∧ (n = 8 → value p.referralOpen) ∧ (n = 9 → value p.silence) ∧
    (n = 10 → value p.captureStall) ∧ (∀ entry : Fin 4, n = 11 + entry.val → value p.cardMap[entry].val) ∧
    (n = 15 → value p.routeMask.toNat) ∧ (n = 16 → value p.routeValue.toNat) ∧ (n = 17 → value p.attnMask.toNat) ∧
    (n = 18 → value p.srqMask.toNat)

/-- IDENTIFY answers the vendor, the part, the revision, the reset cause and the seconds since the last reset, and changes nothing (R175).
WARM_RESET is refused BUSY while any work is open, and otherwise sets the stations, the run contexts, the links, the attention unit, the
reset cause and the seconds as R177, R167 and R70 say, keeps everything else, and is the M-link's one waiting response. -/
def Obligations.IdentifyAndWarmReset : Prop :=
  (∀ s : State, s.deaf .m = false →
     exec (.identify .m (.of ())) s = .next
       ((s.handOn .m).respond .m
         ⟨.ok, ([0x50, 0x53, 0x08, 0x40, 0x01] : List Byte) ++
           be1 (match s.resetCause with | .powerOn => 1 | .resetPin => 2 | .warm => 3) ++ be4 s.uptime⟩)) ∧
  (∀ s : State, s.deaf .m = false →
     let h := s.handOn .m
     let busy : Prop :=
       (∃ st : Station, s.job st ≠ none) ∨ (∃ st : Station, s.sessions[st] ≠ none) ∨ s.referrals ≠ [] ∨ s.captureQueue ≠ []
     let port : Port := { receiver := .hunt, accepted := 0, refused := 0, discarded := 0, armed := true }
     (busy → exec (.warmReset .m (.of ())) s = .next (h.respond .m ⟨.busy, []⟩)) ∧
     (¬ busy →
       exec (.warmReset .m (.of ())) s = .next
         { s with
           stations := s.stations.map (fun r =>
             { state := .off, prior := none, flags := r.flags, presence := .present, silence := none })
           runs := Vector.replicate 8 { job := none, lastOutcome := .none }
           paths := Vector.replicate 8 []
           jamTimers := Vector.replicate 8 none
           lostTimers := Vector.replicate 8 none
           closingWait := []
           stallTimer := none
           headAge := 0
           latched := 0
           io :=
             { cPorts := Vector.replicate 8 port, pPort := port, mPort := port, cOut := s.io.cOut, pOut := s.io.pOut
               mWaiting := some ⟨.ok, []⟩, mSent := 0, lastViolation := none }
           resetCause := .warm
           uptime := 0 }))

/-- TEARDOWN (R176): station by station every charging run is closed with reason TEARDOWN and every run in REFERRAL cancelled, then station
by station every OPEN session leaves OPEN; afterwards every run is IDLE and no session is OPEN; the answer counts them and gives the numbers
of the first and last RUN_CLOSE records. -/
def Obligations.TeardownEndsTheWork : Prop :=
  (∀ s : State, s.deaf .m = false →
    let closed := allStations.countP (fun st => (s.job st).any (fun j => j.state != .referral))
    let cancelled := allStations.countP (fun st => (s.job st).any (fun j => j.state == .referral))
    let moved := allStations.countP (fun st => s.sessions[st].any (fun x => x.state == .opened))
    let after : Nat → Nat := fun n => if 65535 ≤ n then 1 else n + 1
    exec (.teardown .m (.of ())) s = .next
      ((s.handOn .m).teardown.respond .m
        ⟨.ok, be1 closed ++ be1 cancelled ++ be1 moved ++ be2 (if closed = 0 then 0 else s.logNext) ++
          be2 (if closed = 0 then 0 else Nat.repeat after (closed - 1) s.logNext)⟩)) ∧
  (∀ s : State,
    s.teardown = allStations.foldl State.teardownSession (allStations.foldl State.teardownRun s) ∧
    (∀ st : Station, s.teardown.job st = none ∧ s.teardown.sessionOpen st = false)) ∧
  (∀ (s : State) (st : Station),
    (s.job st = none → s.teardownRun st = s) ∧
    (∀ j, s.job st = some j →
      s.teardownRun st = if j.state = .referral then s.returnJob st j .cancelled else s.closeJob st j .teardown) ∧
    ((∀ x, s.sessions[st] = some x → x.state ≠ .opened) → s.teardownSession st = s) ∧
    (∀ x, s.sessions[st] = some x → x.state = .opened → s.teardownSession st = s.leaveOpen st x))

/-! ### Time and resets -/

/-- A second of the timebase counts down every timer that runs: not one that is stopped, and not one that is frozen (R64, R87, R89, R100,
R111, R128, R163, R164); it counts the head's age and the seconds since the last reset, which stop at their limits (R111, R175); and changes
nothing else. Counting and expiring are separate commands (log 3). The silence timer's expiry makes a PRESENT station SILENT, latches
STATION_SILENT and starts the lost timer where its run is open; on a SILENT station it only stops the timer; a timer that has not counted
down, or is frozen, does not expire (R89, R163, R164; log 3). -/
def Obligations.TimebaseAndSilence : Prop :=
  (∀ s : State,
     let down (frozen : Bool) (t : Option Nat) : Option Nat := if frozen then t else t.map (fun n => n - 1)
     let held (st : Station) : Bool := s.stations[st].state == .held
     let silent (st : Station) : Bool := s.stations[st].presence == .silent
     ∃ t : State, exec .timebaseTick s = .next t ∧
       (∀ st : Station,
         t.runs[st] =
           { s.runs[st] with
             job := s.runs[st].job.map (fun j =>
               { j with idleTimer := down (held st || silent st || j.state == .jammed) j.idleTimer }) } ∧
         t.jamTimers[st] = down (held st || silent st) s.jamTimers[st] ∧
         t.lostTimers[st] = down (held st) s.lostTimers[st] ∧
         t.sessions[st] =
           s.sessions[st].map (fun x =>
             { x with idleTimer := down (held st || (s.job st).any (fun j => j.slot == .card)) x.idleTimer }) ∧
         t.stations[st] = { s.stations[st] with silence := down (held st) s.stations[st].silence }) ∧
       t = { s with
         runs := t.runs, jamTimers := t.jamTimers, lostTimers := t.lostTimers, sessions := t.sessions, stations := t.stations
         referrals := s.referrals.map (fun r => { r with timeout := r.timeout - 1 })
         stallTimer := s.stallTimer.map (fun n => n - 1)
         headAge := if s.captureQueue = [] then s.headAge else min 65535 (s.headAge + 1)
         uptime := min 4294967295 (s.uptime + 1) }) ∧
  (∀ (s : State) (st : Station),
     let r := s.stations[st]
     let silenced : State := { s with stations := s.stations.set st { r with presence := .silent, silence := none } }
     let noted : State := { silenced with latched := s.latched ||| 0x00000001#32 }
     (r.silence ≠ some 0 ∨ r.state = .held → exec (.silenceTimerExpiry st) s = .next s) ∧
     (r.silence = some 0 → r.state ≠ .held → r.presence = .silent → exec (.silenceTimerExpiry st) s = .next silenced) ∧
     (r.silence = some 0 → r.state ≠ .held → r.presence = .present → s.job st = none →
       exec (.silenceTimerExpiry st) s = .next noted) ∧
     (r.silence = some 0 → r.state ≠ .held → r.presence = .present → s.job st ≠ none →
       exec (.silenceTimerExpiry st) s = .next { noted with lostTimers := s.lostTimers.set st (some s.params.jamTimer) }))

/-- Power-on and the reset pin set every block to its reset values, alike but for the reset cause (R22, R41, R70, R92, R115, R131, R148,
R149, R167, R172, R178). That the count of the M-link's bytes clocked out, the model's own field, is 0, and that the commands still waiting
stay waiting, are the model's choices (log 18). -/
def Obligations.ResetValues : Prop :=
  ∀ s : State,
    let port : Port := { receiver := .hunt, accepted := 0, refused := 0, discarded := 0, armed := true }
    let tier : TierPrices :=
      { base := Vector.replicate 16 0, back := 0, breaks := Vector.replicate 4 { threshold := 0, discount := 0 } }
    let bank : Bank := { tiers := Vector.replicate 4 tier, generation := 0, users := 0 }
    let after (cause : ResetCause) : State :=
      { house := [], cards := Vector.replicate 8 none, mirrors := [], bankA := bank, bankB := bank, active := none, genCounter := 0
        runs := Vector.replicate 8 { job := none, lastOutcome := .none }
        paths := Vector.replicate 8 [], jamTimers := Vector.replicate 8 none, lostTimers := Vector.replicate 8 none
        sessions := Vector.replicate 8 none, captureQueue := [], closingWait := [], stallTimer := none, headAge := 0
        referrals := [], referralNextId := 1, log := [], logNext := 1, reserved := 0
        meters := Vector.replicate 8 { kinds := Vector.replicate 16 0, duplex := 0, jam := 0, credited := 0, disputed := 0 }
        stations := Vector.replicate 8
          { state := .off, prior := none, flags := { accountRuns := true, cardRuns := true, remoteRuns := true }
            presence := .present, silence := none }
        io :=
          { cPorts := Vector.replicate 8 port, pPort := port, mPort := port, cOut := Vector.replicate 8 [], pOut := []
            mWaiting := none, mSent := 0, lastViolation := none }
        latched := 0
        params :=
          { holdStep := 200, interimInterval := 100, jamAllowance := 20, jamTimer := 180, runIdle := 300, cardIdle := 120
            referralTimeout := 8, referralOpen := 500, silence := 10, captureStall := 60, cardMap := #v[0, 1, 2, 3]
            routeMask := 0, routeValue := 0, attnMask := 0, srqMask := 0 }
        resetCause := cause, uptime := 0, pending := s.pending }
    exec .powerOn s = .next (after .powerOn) ∧ exec .resetPin s = .next (after .resetPin) ∧
      State.reset = { after .powerOn with pending := [] }

/-! ### Laws that every step keeps -/

/-- The laws of the log, of the runs and their in-path lists, and of the referral queue hold in the reset state. -/
def Obligations.ResetMeetsTheLaws : Prop :=
  State.reset.LogLaw ∧ State.reset.SheetLaw

/-- Every step keeps the log's law: the reserved count is the number of open runs and of sessions not NONE (R136), and with the occupied
count it never exceeds 256 (R137). -/
def Obligations.StepsKeepTheLogLaw : Prop :=
  ∀ s t : State, s.LogLaw → step s = .next t → t.LogLaw

/-- Every step keeps the law of the runs, their in-path lists and the referral queue: the lists' order and room (R72), every granted
sheet's one fate and the jam allowance (R73), the coverage of A by the hold and the interims (R38, R39), and one referral at most for each
station, under an id of its own, for the run it was created for (R119, R120, R129). -/
def Obligations.StepsKeepTheSheetLaw : Prop :=
  ∀ s t : State, s.SheetLaw → step s = .next t → t.SheetLaw
end

