-- ==== Sys2Proof/Laws/Codec.lean ====
section
/-! SUPPORT. The round trip of fields and bodies: what is written most significant byte first is read back whole (R179). -/

namespace Sys2Proof

theorem half_be2 (h : Half) : be2 h.toNat = [BitVec.ofNat 8 (h.toNat / 256), BitVec.ofNat 8 h.toNat] ∧
    half (BitVec.ofNat 8 (h.toNat / 256)) (BitVec.ofNat 8 h.toNat) = h := by
  refine ⟨rfl, BitVec.eq_of_toNat_eq ?_⟩
  have := h.isLt
  simp only [half, BitVec.toNat_append, BitVec.toNat_ofNat]
  rw [← Nat.shiftLeft_add_eq_or_of_lt (by omega), Nat.shiftLeft_eq]
  omega

theorem word_be4 (w : Word) :
    be4 w.toNat = [BitVec.ofNat 8 (w.toNat / 16777216), BitVec.ofNat 8 (w.toNat / 65536), BitVec.ofNat 8 (w.toNat / 256),
      BitVec.ofNat 8 w.toNat] ∧
    word (BitVec.ofNat 8 (w.toNat / 16777216)) (BitVec.ofNat 8 (w.toNat / 65536)) (BitVec.ofNat 8 (w.toNat / 256))
      (BitVec.ofNat 8 w.toNat) = w := by
  refine ⟨rfl, BitVec.eq_of_toNat_eq ?_⟩
  have := w.isLt
  simp only [word, BitVec.toNat_append, BitVec.toNat_ofNat]
  rw [← Nat.shiftLeft_add_eq_or_of_lt (by omega), ← Nat.shiftLeft_add_eq_or_of_lt (by omega),
    ← Nat.shiftLeft_add_eq_or_of_lt (by omega)]
  simp only [Nat.shiftLeft_eq]
  omega

@[simp] theorem half_read (h : Half) : half (BitVec.ofNat 8 (h.toNat / 256)) (BitVec.setWidth 8 h) = h := by
  rw [← BitVec.ofNat_toNat]
  exact (half_be2 h).2

@[simp] theorem word_read (w : Word) :
    word (BitVec.ofNat 8 (w.toNat / 16777216)) (BitVec.ofNat 8 (w.toNat / 65536)) (BitVec.ofNat 8 (w.toNat / 256))
      (BitVec.setWidth 8 w) = w := by
  rw [← BitVec.ofNat_toNat]
  exact (word_be4 w).2

/-- What a spelled frame says of its command: it is a body of fields, written under the code. -/
theorem spell_some {α : Type} {link : Link} {code : Byte} {write : α → List Byte} {body : Body α} {f : RequestFrame}
    (h : spell link code write body = some f) : ∃ x, body = .of x ∧ f = ⟨link, code, write x⟩ := by
  cases body with
  | of x => cases h; exact ⟨x, rfl, rfl⟩
  | wrongLength => cases h

end Sys2Proof
end

