-- ==== Sys2Proof/Laws/State.lean ====
section
/-! SUPPORT. What each update of State leaves in each field: one lemma per field per update, true by definition. -/

namespace Sys2Proof.Machine

/-! `latch` -/
@[simp] theorem State.latch_house (s : State) (e : Event) : (s.latch e).house = s.house := rfl
@[simp] theorem State.latch_cards (s : State) (e : Event) : (s.latch e).cards = s.cards := rfl
@[simp] theorem State.latch_mirrors (s : State) (e : Event) : (s.latch e).mirrors = s.mirrors := rfl
@[simp] theorem State.latch_bankA (s : State) (e : Event) : (s.latch e).bankA = s.bankA := rfl
@[simp] theorem State.latch_bankB (s : State) (e : Event) : (s.latch e).bankB = s.bankB := rfl
@[simp] theorem State.latch_active (s : State) (e : Event) : (s.latch e).active = s.active := rfl
@[simp] theorem State.latch_genCounter (s : State) (e : Event) : (s.latch e).genCounter = s.genCounter := rfl
@[simp] theorem State.latch_runs (s : State) (e : Event) : (s.latch e).runs = s.runs := rfl
@[simp] theorem State.latch_paths (s : State) (e : Event) : (s.latch e).paths = s.paths := rfl
@[simp] theorem State.latch_jamTimers (s : State) (e : Event) : (s.latch e).jamTimers = s.jamTimers := rfl
@[simp] theorem State.latch_lostTimers (s : State) (e : Event) : (s.latch e).lostTimers = s.lostTimers := rfl
@[simp] theorem State.latch_sessions (s : State) (e : Event) : (s.latch e).sessions = s.sessions := rfl
@[simp] theorem State.latch_captureQueue (s : State) (e : Event) : (s.latch e).captureQueue = s.captureQueue := rfl
@[simp] theorem State.latch_closingWait (s : State) (e : Event) : (s.latch e).closingWait = s.closingWait := rfl
@[simp] theorem State.latch_stallTimer (s : State) (e : Event) : (s.latch e).stallTimer = s.stallTimer := rfl
@[simp] theorem State.latch_headAge (s : State) (e : Event) : (s.latch e).headAge = s.headAge := rfl
@[simp] theorem State.latch_referrals (s : State) (e : Event) : (s.latch e).referrals = s.referrals := rfl
@[simp] theorem State.latch_referralNextId (s : State) (e : Event) : (s.latch e).referralNextId = s.referralNextId := rfl
@[simp] theorem State.latch_log (s : State) (e : Event) : (s.latch e).log = s.log := rfl
@[simp] theorem State.latch_logNext (s : State) (e : Event) : (s.latch e).logNext = s.logNext := rfl
@[simp] theorem State.latch_reserved (s : State) (e : Event) : (s.latch e).reserved = s.reserved := rfl
@[simp] theorem State.latch_meters (s : State) (e : Event) : (s.latch e).meters = s.meters := rfl
@[simp] theorem State.latch_stations (s : State) (e : Event) : (s.latch e).stations = s.stations := rfl
@[simp] theorem State.latch_io (s : State) (e : Event) : (s.latch e).io = s.io := rfl
@[simp] theorem State.latch_latched (s : State) (e : Event) : (s.latch e).latched = (s.latched ||| e.mask) := rfl
@[simp] theorem State.latch_params (s : State) (e : Event) : (s.latch e).params = s.params := rfl
@[simp] theorem State.latch_resetCause (s : State) (e : Event) : (s.latch e).resetCause = s.resetCause := rfl
@[simp] theorem State.latch_uptime (s : State) (e : Event) : (s.latch e).uptime = s.uptime := rfl
@[simp] theorem State.latch_pending (s : State) (e : Event) : (s.latch e).pending = s.pending := rfl

/-! `latchIf` -/
@[simp] theorem State.latchIf_house (s : State) (c : Bool) (e : Event) : (s.latchIf c e).house = s.house := rfl
@[simp] theorem State.latchIf_cards (s : State) (c : Bool) (e : Event) : (s.latchIf c e).cards = s.cards := rfl
@[simp] theorem State.latchIf_mirrors (s : State) (c : Bool) (e : Event) : (s.latchIf c e).mirrors = s.mirrors := rfl
@[simp] theorem State.latchIf_bankA (s : State) (c : Bool) (e : Event) : (s.latchIf c e).bankA = s.bankA := rfl
@[simp] theorem State.latchIf_bankB (s : State) (c : Bool) (e : Event) : (s.latchIf c e).bankB = s.bankB := rfl
@[simp] theorem State.latchIf_active (s : State) (c : Bool) (e : Event) : (s.latchIf c e).active = s.active := rfl
@[simp] theorem State.latchIf_genCounter (s : State) (c : Bool) (e : Event) : (s.latchIf c e).genCounter = s.genCounter := rfl
@[simp] theorem State.latchIf_runs (s : State) (c : Bool) (e : Event) : (s.latchIf c e).runs = s.runs := rfl
@[simp] theorem State.latchIf_paths (s : State) (c : Bool) (e : Event) : (s.latchIf c e).paths = s.paths := rfl
@[simp] theorem State.latchIf_jamTimers (s : State) (c : Bool) (e : Event) : (s.latchIf c e).jamTimers = s.jamTimers := rfl
@[simp] theorem State.latchIf_lostTimers (s : State) (c : Bool) (e : Event) : (s.latchIf c e).lostTimers = s.lostTimers := rfl
@[simp] theorem State.latchIf_sessions (s : State) (c : Bool) (e : Event) : (s.latchIf c e).sessions = s.sessions := rfl
@[simp] theorem State.latchIf_captureQueue (s : State) (c : Bool) (e : Event) : (s.latchIf c e).captureQueue = s.captureQueue := rfl
@[simp] theorem State.latchIf_closingWait (s : State) (c : Bool) (e : Event) : (s.latchIf c e).closingWait = s.closingWait := rfl
@[simp] theorem State.latchIf_stallTimer (s : State) (c : Bool) (e : Event) : (s.latchIf c e).stallTimer = s.stallTimer := rfl
@[simp] theorem State.latchIf_headAge (s : State) (c : Bool) (e : Event) : (s.latchIf c e).headAge = s.headAge := rfl
@[simp] theorem State.latchIf_referrals (s : State) (c : Bool) (e : Event) : (s.latchIf c e).referrals = s.referrals := rfl
@[simp] theorem State.latchIf_referralNextId (s : State) (c : Bool) (e : Event) : (s.latchIf c e).referralNextId = s.referralNextId := rfl
@[simp] theorem State.latchIf_log (s : State) (c : Bool) (e : Event) : (s.latchIf c e).log = s.log := rfl
@[simp] theorem State.latchIf_logNext (s : State) (c : Bool) (e : Event) : (s.latchIf c e).logNext = s.logNext := rfl
@[simp] theorem State.latchIf_reserved (s : State) (c : Bool) (e : Event) : (s.latchIf c e).reserved = s.reserved := rfl
@[simp] theorem State.latchIf_meters (s : State) (c : Bool) (e : Event) : (s.latchIf c e).meters = s.meters := rfl
@[simp] theorem State.latchIf_stations (s : State) (c : Bool) (e : Event) : (s.latchIf c e).stations = s.stations := rfl
@[simp] theorem State.latchIf_io (s : State) (c : Bool) (e : Event) : (s.latchIf c e).io = s.io := rfl
@[simp] theorem State.latchIf_latched (s : State) (c : Bool) (e : Event) : (s.latchIf c e).latched = (if c then s.latched ||| e.mask else s.latched) := rfl
@[simp] theorem State.latchIf_params (s : State) (c : Bool) (e : Event) : (s.latchIf c e).params = s.params := rfl
@[simp] theorem State.latchIf_resetCause (s : State) (c : Bool) (e : Event) : (s.latchIf c e).resetCause = s.resetCause := rfl
@[simp] theorem State.latchIf_uptime (s : State) (c : Bool) (e : Event) : (s.latchIf c e).uptime = s.uptime := rfl
@[simp] theorem State.latchIf_pending (s : State) (c : Bool) (e : Event) : (s.latchIf c e).pending = s.pending := rfl

/-! `mapCredit` -/
@[simp] theorem State.mapCredit_house (s : State) (k : SlotKind) (n : Word) (f : Credit → Credit) : (s.mapCredit k n f).house = (if k = .house then s.house.map (fun r => if r.number = n then { r with credit := f r.credit } else r) else s.house) := rfl
@[simp] theorem State.mapCredit_cards (s : State) (k : SlotKind) (n : Word) (f : Credit → Credit) : (s.mapCredit k n f).cards = (if k = .card then s.cards.set (cardStation n) (s.cards[cardStation n].map f) else s.cards) := rfl
@[simp] theorem State.mapCredit_mirrors (s : State) (k : SlotKind) (n : Word) (f : Credit → Credit) : (s.mapCredit k n f).mirrors = (if k = .mirror then s.mirrors.map (fun m => if m.number = n then { m with credit := f m.credit } else m) else s.mirrors) := rfl
@[simp] theorem State.mapCredit_bankA (s : State) (k : SlotKind) (n : Word) (f : Credit → Credit) : (s.mapCredit k n f).bankA = s.bankA := rfl
@[simp] theorem State.mapCredit_bankB (s : State) (k : SlotKind) (n : Word) (f : Credit → Credit) : (s.mapCredit k n f).bankB = s.bankB := rfl
@[simp] theorem State.mapCredit_active (s : State) (k : SlotKind) (n : Word) (f : Credit → Credit) : (s.mapCredit k n f).active = s.active := rfl
@[simp] theorem State.mapCredit_genCounter (s : State) (k : SlotKind) (n : Word) (f : Credit → Credit) : (s.mapCredit k n f).genCounter = s.genCounter := rfl
@[simp] theorem State.mapCredit_runs (s : State) (k : SlotKind) (n : Word) (f : Credit → Credit) : (s.mapCredit k n f).runs = s.runs := rfl
@[simp] theorem State.mapCredit_paths (s : State) (k : SlotKind) (n : Word) (f : Credit → Credit) : (s.mapCredit k n f).paths = s.paths := rfl
@[simp] theorem State.mapCredit_jamTimers (s : State) (k : SlotKind) (n : Word) (f : Credit → Credit) : (s.mapCredit k n f).jamTimers = s.jamTimers := rfl
@[simp] theorem State.mapCredit_lostTimers (s : State) (k : SlotKind) (n : Word) (f : Credit → Credit) : (s.mapCredit k n f).lostTimers = s.lostTimers := rfl
@[simp] theorem State.mapCredit_sessions (s : State) (k : SlotKind) (n : Word) (f : Credit → Credit) : (s.mapCredit k n f).sessions = s.sessions := rfl
@[simp] theorem State.mapCredit_captureQueue (s : State) (k : SlotKind) (n : Word) (f : Credit → Credit) : (s.mapCredit k n f).captureQueue = s.captureQueue := rfl
@[simp] theorem State.mapCredit_closingWait (s : State) (k : SlotKind) (n : Word) (f : Credit → Credit) : (s.mapCredit k n f).closingWait = s.closingWait := rfl
@[simp] theorem State.mapCredit_stallTimer (s : State) (k : SlotKind) (n : Word) (f : Credit → Credit) : (s.mapCredit k n f).stallTimer = s.stallTimer := rfl
@[simp] theorem State.mapCredit_headAge (s : State) (k : SlotKind) (n : Word) (f : Credit → Credit) : (s.mapCredit k n f).headAge = s.headAge := rfl
@[simp] theorem State.mapCredit_referrals (s : State) (k : SlotKind) (n : Word) (f : Credit → Credit) : (s.mapCredit k n f).referrals = s.referrals := rfl
@[simp] theorem State.mapCredit_referralNextId (s : State) (k : SlotKind) (n : Word) (f : Credit → Credit) : (s.mapCredit k n f).referralNextId = s.referralNextId := rfl
@[simp] theorem State.mapCredit_log (s : State) (k : SlotKind) (n : Word) (f : Credit → Credit) : (s.mapCredit k n f).log = s.log := rfl
@[simp] theorem State.mapCredit_logNext (s : State) (k : SlotKind) (n : Word) (f : Credit → Credit) : (s.mapCredit k n f).logNext = s.logNext := rfl
@[simp] theorem State.mapCredit_reserved (s : State) (k : SlotKind) (n : Word) (f : Credit → Credit) : (s.mapCredit k n f).reserved = s.reserved := rfl
@[simp] theorem State.mapCredit_meters (s : State) (k : SlotKind) (n : Word) (f : Credit → Credit) : (s.mapCredit k n f).meters = s.meters := rfl
@[simp] theorem State.mapCredit_stations (s : State) (k : SlotKind) (n : Word) (f : Credit → Credit) : (s.mapCredit k n f).stations = s.stations := rfl
@[simp] theorem State.mapCredit_io (s : State) (k : SlotKind) (n : Word) (f : Credit → Credit) : (s.mapCredit k n f).io = s.io := rfl
@[simp] theorem State.mapCredit_latched (s : State) (k : SlotKind) (n : Word) (f : Credit → Credit) : (s.mapCredit k n f).latched = s.latched := rfl
@[simp] theorem State.mapCredit_params (s : State) (k : SlotKind) (n : Word) (f : Credit → Credit) : (s.mapCredit k n f).params = s.params := rfl
@[simp] theorem State.mapCredit_resetCause (s : State) (k : SlotKind) (n : Word) (f : Credit → Credit) : (s.mapCredit k n f).resetCause = s.resetCause := rfl
@[simp] theorem State.mapCredit_uptime (s : State) (k : SlotKind) (n : Word) (f : Credit → Credit) : (s.mapCredit k n f).uptime = s.uptime := rfl
@[simp] theorem State.mapCredit_pending (s : State) (k : SlotKind) (n : Word) (f : Credit → Credit) : (s.mapCredit k n f).pending = s.pending := rfl

/-! `freeMirror` -/
@[simp] theorem State.freeMirror_house (s : State) (k : SlotKind) (n : Word) : (s.freeMirror k n).house = s.house := rfl
@[simp] theorem State.freeMirror_cards (s : State) (k : SlotKind) (n : Word) : (s.freeMirror k n).cards = s.cards := rfl
@[simp] theorem State.freeMirror_mirrors (s : State) (k : SlotKind) (n : Word) : (s.freeMirror k n).mirrors = (if k = .mirror then s.mirrors.filter (fun m => !(m.number == n && m.credit.runList.isEmpty)) else s.mirrors) := rfl
@[simp] theorem State.freeMirror_bankA (s : State) (k : SlotKind) (n : Word) : (s.freeMirror k n).bankA = s.bankA := rfl
@[simp] theorem State.freeMirror_bankB (s : State) (k : SlotKind) (n : Word) : (s.freeMirror k n).bankB = s.bankB := rfl
@[simp] theorem State.freeMirror_active (s : State) (k : SlotKind) (n : Word) : (s.freeMirror k n).active = s.active := rfl
@[simp] theorem State.freeMirror_genCounter (s : State) (k : SlotKind) (n : Word) : (s.freeMirror k n).genCounter = s.genCounter := rfl
@[simp] theorem State.freeMirror_runs (s : State) (k : SlotKind) (n : Word) : (s.freeMirror k n).runs = s.runs := rfl
@[simp] theorem State.freeMirror_paths (s : State) (k : SlotKind) (n : Word) : (s.freeMirror k n).paths = s.paths := rfl
@[simp] theorem State.freeMirror_jamTimers (s : State) (k : SlotKind) (n : Word) : (s.freeMirror k n).jamTimers = s.jamTimers := rfl
@[simp] theorem State.freeMirror_lostTimers (s : State) (k : SlotKind) (n : Word) : (s.freeMirror k n).lostTimers = s.lostTimers := rfl
@[simp] theorem State.freeMirror_sessions (s : State) (k : SlotKind) (n : Word) : (s.freeMirror k n).sessions = s.sessions := rfl
@[simp] theorem State.freeMirror_captureQueue (s : State) (k : SlotKind) (n : Word) : (s.freeMirror k n).captureQueue = s.captureQueue := rfl
@[simp] theorem State.freeMirror_closingWait (s : State) (k : SlotKind) (n : Word) : (s.freeMirror k n).closingWait = s.closingWait := rfl
@[simp] theorem State.freeMirror_stallTimer (s : State) (k : SlotKind) (n : Word) : (s.freeMirror k n).stallTimer = s.stallTimer := rfl
@[simp] theorem State.freeMirror_headAge (s : State) (k : SlotKind) (n : Word) : (s.freeMirror k n).headAge = s.headAge := rfl
@[simp] theorem State.freeMirror_referrals (s : State) (k : SlotKind) (n : Word) : (s.freeMirror k n).referrals = s.referrals := rfl
@[simp] theorem State.freeMirror_referralNextId (s : State) (k : SlotKind) (n : Word) : (s.freeMirror k n).referralNextId = s.referralNextId := rfl
@[simp] theorem State.freeMirror_log (s : State) (k : SlotKind) (n : Word) : (s.freeMirror k n).log = s.log := rfl
@[simp] theorem State.freeMirror_logNext (s : State) (k : SlotKind) (n : Word) : (s.freeMirror k n).logNext = s.logNext := rfl
@[simp] theorem State.freeMirror_reserved (s : State) (k : SlotKind) (n : Word) : (s.freeMirror k n).reserved = s.reserved := rfl
@[simp] theorem State.freeMirror_meters (s : State) (k : SlotKind) (n : Word) : (s.freeMirror k n).meters = s.meters := rfl
@[simp] theorem State.freeMirror_stations (s : State) (k : SlotKind) (n : Word) : (s.freeMirror k n).stations = s.stations := rfl
@[simp] theorem State.freeMirror_io (s : State) (k : SlotKind) (n : Word) : (s.freeMirror k n).io = s.io := rfl
@[simp] theorem State.freeMirror_latched (s : State) (k : SlotKind) (n : Word) : (s.freeMirror k n).latched = s.latched := rfl
@[simp] theorem State.freeMirror_params (s : State) (k : SlotKind) (n : Word) : (s.freeMirror k n).params = s.params := rfl
@[simp] theorem State.freeMirror_resetCause (s : State) (k : SlotKind) (n : Word) : (s.freeMirror k n).resetCause = s.resetCause := rfl
@[simp] theorem State.freeMirror_uptime (s : State) (k : SlotKind) (n : Word) : (s.freeMirror k n).uptime = s.uptime := rfl
@[simp] theorem State.freeMirror_pending (s : State) (k : SlotKind) (n : Word) : (s.freeMirror k n).pending = s.pending := rfl

/-! `append` -/
@[simp] theorem State.append_house (s : State) (e : LogEntry) : (s.append e).house = s.house := rfl
@[simp] theorem State.append_cards (s : State) (e : LogEntry) : (s.append e).cards = s.cards := rfl
@[simp] theorem State.append_mirrors (s : State) (e : LogEntry) : (s.append e).mirrors = s.mirrors := rfl
@[simp] theorem State.append_bankA (s : State) (e : LogEntry) : (s.append e).bankA = s.bankA := rfl
@[simp] theorem State.append_bankB (s : State) (e : LogEntry) : (s.append e).bankB = s.bankB := rfl
@[simp] theorem State.append_active (s : State) (e : LogEntry) : (s.append e).active = s.active := rfl
@[simp] theorem State.append_genCounter (s : State) (e : LogEntry) : (s.append e).genCounter = s.genCounter := rfl
@[simp] theorem State.append_runs (s : State) (e : LogEntry) : (s.append e).runs = s.runs := rfl
@[simp] theorem State.append_paths (s : State) (e : LogEntry) : (s.append e).paths = s.paths := rfl
@[simp] theorem State.append_jamTimers (s : State) (e : LogEntry) : (s.append e).jamTimers = s.jamTimers := rfl
@[simp] theorem State.append_lostTimers (s : State) (e : LogEntry) : (s.append e).lostTimers = s.lostTimers := rfl
@[simp] theorem State.append_sessions (s : State) (e : LogEntry) : (s.append e).sessions = s.sessions := rfl
@[simp] theorem State.append_captureQueue (s : State) (e : LogEntry) : (s.append e).captureQueue = s.captureQueue := rfl
@[simp] theorem State.append_closingWait (s : State) (e : LogEntry) : (s.append e).closingWait = s.closingWait := rfl
@[simp] theorem State.append_stallTimer (s : State) (e : LogEntry) : (s.append e).stallTimer = s.stallTimer := rfl
@[simp] theorem State.append_headAge (s : State) (e : LogEntry) : (s.append e).headAge = s.headAge := rfl
@[simp] theorem State.append_referrals (s : State) (e : LogEntry) : (s.append e).referrals = s.referrals := rfl
@[simp] theorem State.append_referralNextId (s : State) (e : LogEntry) : (s.append e).referralNextId = s.referralNextId := rfl
@[simp] theorem State.append_log (s : State) (e : LogEntry) : (s.append e).log = (s.log ++ [⟨s.logNext, e⟩]) := rfl
@[simp] theorem State.append_logNext (s : State) (e : LogEntry) : (s.append e).logNext = (step16 s.logNext) := rfl
@[simp] theorem State.append_reserved (s : State) (e : LogEntry) : (s.append e).reserved = s.reserved := rfl
@[simp] theorem State.append_meters (s : State) (e : LogEntry) : (s.append e).meters = s.meters := rfl
@[simp] theorem State.append_stations (s : State) (e : LogEntry) : (s.append e).stations = s.stations := rfl
@[simp] theorem State.append_io (s : State) (e : LogEntry) : (s.append e).io = s.io := rfl
@[simp] theorem State.append_latched (s : State) (e : LogEntry) : (s.append e).latched = s.latched := rfl
@[simp] theorem State.append_params (s : State) (e : LogEntry) : (s.append e).params = s.params := rfl
@[simp] theorem State.append_resetCause (s : State) (e : LogEntry) : (s.append e).resetCause = s.resetCause := rfl
@[simp] theorem State.append_uptime (s : State) (e : LogEntry) : (s.append e).uptime = s.uptime := rfl
@[simp] theorem State.append_pending (s : State) (e : LogEntry) : (s.append e).pending = s.pending := rfl

/-! `reserve` -/
@[simp] theorem State.reserve_house (s : State) : (s.reserve).house = s.house := rfl
@[simp] theorem State.reserve_cards (s : State) : (s.reserve).cards = s.cards := rfl
@[simp] theorem State.reserve_mirrors (s : State) : (s.reserve).mirrors = s.mirrors := rfl
@[simp] theorem State.reserve_bankA (s : State) : (s.reserve).bankA = s.bankA := rfl
@[simp] theorem State.reserve_bankB (s : State) : (s.reserve).bankB = s.bankB := rfl
@[simp] theorem State.reserve_active (s : State) : (s.reserve).active = s.active := rfl
@[simp] theorem State.reserve_genCounter (s : State) : (s.reserve).genCounter = s.genCounter := rfl
@[simp] theorem State.reserve_runs (s : State) : (s.reserve).runs = s.runs := rfl
@[simp] theorem State.reserve_paths (s : State) : (s.reserve).paths = s.paths := rfl
@[simp] theorem State.reserve_jamTimers (s : State) : (s.reserve).jamTimers = s.jamTimers := rfl
@[simp] theorem State.reserve_lostTimers (s : State) : (s.reserve).lostTimers = s.lostTimers := rfl
@[simp] theorem State.reserve_sessions (s : State) : (s.reserve).sessions = s.sessions := rfl
@[simp] theorem State.reserve_captureQueue (s : State) : (s.reserve).captureQueue = s.captureQueue := rfl
@[simp] theorem State.reserve_closingWait (s : State) : (s.reserve).closingWait = s.closingWait := rfl
@[simp] theorem State.reserve_stallTimer (s : State) : (s.reserve).stallTimer = s.stallTimer := rfl
@[simp] theorem State.reserve_headAge (s : State) : (s.reserve).headAge = s.headAge := rfl
@[simp] theorem State.reserve_referrals (s : State) : (s.reserve).referrals = s.referrals := rfl
@[simp] theorem State.reserve_referralNextId (s : State) : (s.reserve).referralNextId = s.referralNextId := rfl
@[simp] theorem State.reserve_log (s : State) : (s.reserve).log = s.log := rfl
@[simp] theorem State.reserve_logNext (s : State) : (s.reserve).logNext = s.logNext := rfl
@[simp] theorem State.reserve_reserved (s : State) : (s.reserve).reserved = (s.reserved + 1) := rfl
@[simp] theorem State.reserve_meters (s : State) : (s.reserve).meters = s.meters := rfl
@[simp] theorem State.reserve_stations (s : State) : (s.reserve).stations = s.stations := rfl
@[simp] theorem State.reserve_io (s : State) : (s.reserve).io = s.io := rfl
@[simp] theorem State.reserve_latched (s : State) : (s.reserve).latched = s.latched := rfl
@[simp] theorem State.reserve_params (s : State) : (s.reserve).params = s.params := rfl
@[simp] theorem State.reserve_resetCause (s : State) : (s.reserve).resetCause = s.resetCause := rfl
@[simp] theorem State.reserve_uptime (s : State) : (s.reserve).uptime = s.uptime := rfl
@[simp] theorem State.reserve_pending (s : State) : (s.reserve).pending = s.pending := rfl

/-! `unreserve` -/
@[simp] theorem State.unreserve_house (s : State) : (s.unreserve).house = s.house := rfl
@[simp] theorem State.unreserve_cards (s : State) : (s.unreserve).cards = s.cards := rfl
@[simp] theorem State.unreserve_mirrors (s : State) : (s.unreserve).mirrors = s.mirrors := rfl
@[simp] theorem State.unreserve_bankA (s : State) : (s.unreserve).bankA = s.bankA := rfl
@[simp] theorem State.unreserve_bankB (s : State) : (s.unreserve).bankB = s.bankB := rfl
@[simp] theorem State.unreserve_active (s : State) : (s.unreserve).active = s.active := rfl
@[simp] theorem State.unreserve_genCounter (s : State) : (s.unreserve).genCounter = s.genCounter := rfl
@[simp] theorem State.unreserve_runs (s : State) : (s.unreserve).runs = s.runs := rfl
@[simp] theorem State.unreserve_paths (s : State) : (s.unreserve).paths = s.paths := rfl
@[simp] theorem State.unreserve_jamTimers (s : State) : (s.unreserve).jamTimers = s.jamTimers := rfl
@[simp] theorem State.unreserve_lostTimers (s : State) : (s.unreserve).lostTimers = s.lostTimers := rfl
@[simp] theorem State.unreserve_sessions (s : State) : (s.unreserve).sessions = s.sessions := rfl
@[simp] theorem State.unreserve_captureQueue (s : State) : (s.unreserve).captureQueue = s.captureQueue := rfl
@[simp] theorem State.unreserve_closingWait (s : State) : (s.unreserve).closingWait = s.closingWait := rfl
@[simp] theorem State.unreserve_stallTimer (s : State) : (s.unreserve).stallTimer = s.stallTimer := rfl
@[simp] theorem State.unreserve_headAge (s : State) : (s.unreserve).headAge = s.headAge := rfl
@[simp] theorem State.unreserve_referrals (s : State) : (s.unreserve).referrals = s.referrals := rfl
@[simp] theorem State.unreserve_referralNextId (s : State) : (s.unreserve).referralNextId = s.referralNextId := rfl
@[simp] theorem State.unreserve_log (s : State) : (s.unreserve).log = s.log := rfl
@[simp] theorem State.unreserve_logNext (s : State) : (s.unreserve).logNext = s.logNext := rfl
@[simp] theorem State.unreserve_reserved (s : State) : (s.unreserve).reserved = (s.reserved - 1) := rfl
@[simp] theorem State.unreserve_meters (s : State) : (s.unreserve).meters = s.meters := rfl
@[simp] theorem State.unreserve_stations (s : State) : (s.unreserve).stations = s.stations := rfl
@[simp] theorem State.unreserve_io (s : State) : (s.unreserve).io = s.io := rfl
@[simp] theorem State.unreserve_latched (s : State) : (s.unreserve).latched = s.latched := rfl
@[simp] theorem State.unreserve_params (s : State) : (s.unreserve).params = s.params := rfl
@[simp] theorem State.unreserve_resetCause (s : State) : (s.unreserve).resetCause = s.resetCause := rfl
@[simp] theorem State.unreserve_uptime (s : State) : (s.unreserve).uptime = s.uptime := rfl
@[simp] theorem State.unreserve_pending (s : State) : (s.unreserve).pending = s.pending := rfl

/-! `setBank` -/
@[simp] theorem State.setBank_house (s : State) (name : BankName) (bank : Bank) : (s.setBank name bank).house = s.house := rfl
@[simp] theorem State.setBank_cards (s : State) (name : BankName) (bank : Bank) : (s.setBank name bank).cards = s.cards := rfl
@[simp] theorem State.setBank_mirrors (s : State) (name : BankName) (bank : Bank) : (s.setBank name bank).mirrors = s.mirrors := rfl
@[simp] theorem State.setBank_bankA (s : State) (name : BankName) (bank : Bank) : (s.setBank name bank).bankA = (if name = .a then bank else s.bankA) := rfl
@[simp] theorem State.setBank_bankB (s : State) (name : BankName) (bank : Bank) : (s.setBank name bank).bankB = (if name = .b then bank else s.bankB) := rfl
@[simp] theorem State.setBank_active (s : State) (name : BankName) (bank : Bank) : (s.setBank name bank).active = s.active := rfl
@[simp] theorem State.setBank_genCounter (s : State) (name : BankName) (bank : Bank) : (s.setBank name bank).genCounter = s.genCounter := rfl
@[simp] theorem State.setBank_runs (s : State) (name : BankName) (bank : Bank) : (s.setBank name bank).runs = s.runs := rfl
@[simp] theorem State.setBank_paths (s : State) (name : BankName) (bank : Bank) : (s.setBank name bank).paths = s.paths := rfl
@[simp] theorem State.setBank_jamTimers (s : State) (name : BankName) (bank : Bank) : (s.setBank name bank).jamTimers = s.jamTimers := rfl
@[simp] theorem State.setBank_lostTimers (s : State) (name : BankName) (bank : Bank) : (s.setBank name bank).lostTimers = s.lostTimers := rfl
@[simp] theorem State.setBank_sessions (s : State) (name : BankName) (bank : Bank) : (s.setBank name bank).sessions = s.sessions := rfl
@[simp] theorem State.setBank_captureQueue (s : State) (name : BankName) (bank : Bank) : (s.setBank name bank).captureQueue = s.captureQueue := rfl
@[simp] theorem State.setBank_closingWait (s : State) (name : BankName) (bank : Bank) : (s.setBank name bank).closingWait = s.closingWait := rfl
@[simp] theorem State.setBank_stallTimer (s : State) (name : BankName) (bank : Bank) : (s.setBank name bank).stallTimer = s.stallTimer := rfl
@[simp] theorem State.setBank_headAge (s : State) (name : BankName) (bank : Bank) : (s.setBank name bank).headAge = s.headAge := rfl
@[simp] theorem State.setBank_referrals (s : State) (name : BankName) (bank : Bank) : (s.setBank name bank).referrals = s.referrals := rfl
@[simp] theorem State.setBank_referralNextId (s : State) (name : BankName) (bank : Bank) : (s.setBank name bank).referralNextId = s.referralNextId := rfl
@[simp] theorem State.setBank_log (s : State) (name : BankName) (bank : Bank) : (s.setBank name bank).log = s.log := rfl
@[simp] theorem State.setBank_logNext (s : State) (name : BankName) (bank : Bank) : (s.setBank name bank).logNext = s.logNext := rfl
@[simp] theorem State.setBank_reserved (s : State) (name : BankName) (bank : Bank) : (s.setBank name bank).reserved = s.reserved := rfl
@[simp] theorem State.setBank_meters (s : State) (name : BankName) (bank : Bank) : (s.setBank name bank).meters = s.meters := rfl
@[simp] theorem State.setBank_stations (s : State) (name : BankName) (bank : Bank) : (s.setBank name bank).stations = s.stations := rfl
@[simp] theorem State.setBank_io (s : State) (name : BankName) (bank : Bank) : (s.setBank name bank).io = s.io := rfl
@[simp] theorem State.setBank_latched (s : State) (name : BankName) (bank : Bank) : (s.setBank name bank).latched = s.latched := rfl
@[simp] theorem State.setBank_params (s : State) (name : BankName) (bank : Bank) : (s.setBank name bank).params = s.params := rfl
@[simp] theorem State.setBank_resetCause (s : State) (name : BankName) (bank : Bank) : (s.setBank name bank).resetCause = s.resetCause := rfl
@[simp] theorem State.setBank_uptime (s : State) (name : BankName) (bank : Bank) : (s.setBank name bank).uptime = s.uptime := rfl
@[simp] theorem State.setBank_pending (s : State) (name : BankName) (bank : Bank) : (s.setBank name bank).pending = s.pending := rfl

/-! `useBank` -/
@[simp] theorem State.useBank_house (s : State) (name : BankName) : (s.useBank name).house = s.house := rfl
@[simp] theorem State.useBank_cards (s : State) (name : BankName) : (s.useBank name).cards = s.cards := rfl
@[simp] theorem State.useBank_mirrors (s : State) (name : BankName) : (s.useBank name).mirrors = s.mirrors := rfl
@[simp] theorem State.useBank_bankA (s : State) (name : BankName) : (s.useBank name).bankA = (if name = .a then { s.bank name with users := (s.bank name).users + 1 } else s.bankA) := rfl
@[simp] theorem State.useBank_bankB (s : State) (name : BankName) : (s.useBank name).bankB = (if name = .b then { s.bank name with users := (s.bank name).users + 1 } else s.bankB) := rfl
@[simp] theorem State.useBank_active (s : State) (name : BankName) : (s.useBank name).active = s.active := rfl
@[simp] theorem State.useBank_genCounter (s : State) (name : BankName) : (s.useBank name).genCounter = s.genCounter := rfl
@[simp] theorem State.useBank_runs (s : State) (name : BankName) : (s.useBank name).runs = s.runs := rfl
@[simp] theorem State.useBank_paths (s : State) (name : BankName) : (s.useBank name).paths = s.paths := rfl
@[simp] theorem State.useBank_jamTimers (s : State) (name : BankName) : (s.useBank name).jamTimers = s.jamTimers := rfl
@[simp] theorem State.useBank_lostTimers (s : State) (name : BankName) : (s.useBank name).lostTimers = s.lostTimers := rfl
@[simp] theorem State.useBank_sessions (s : State) (name : BankName) : (s.useBank name).sessions = s.sessions := rfl
@[simp] theorem State.useBank_captureQueue (s : State) (name : BankName) : (s.useBank name).captureQueue = s.captureQueue := rfl
@[simp] theorem State.useBank_closingWait (s : State) (name : BankName) : (s.useBank name).closingWait = s.closingWait := rfl
@[simp] theorem State.useBank_stallTimer (s : State) (name : BankName) : (s.useBank name).stallTimer = s.stallTimer := rfl
@[simp] theorem State.useBank_headAge (s : State) (name : BankName) : (s.useBank name).headAge = s.headAge := rfl
@[simp] theorem State.useBank_referrals (s : State) (name : BankName) : (s.useBank name).referrals = s.referrals := rfl
@[simp] theorem State.useBank_referralNextId (s : State) (name : BankName) : (s.useBank name).referralNextId = s.referralNextId := rfl
@[simp] theorem State.useBank_log (s : State) (name : BankName) : (s.useBank name).log = s.log := rfl
@[simp] theorem State.useBank_logNext (s : State) (name : BankName) : (s.useBank name).logNext = s.logNext := rfl
@[simp] theorem State.useBank_reserved (s : State) (name : BankName) : (s.useBank name).reserved = s.reserved := rfl
@[simp] theorem State.useBank_meters (s : State) (name : BankName) : (s.useBank name).meters = s.meters := rfl
@[simp] theorem State.useBank_stations (s : State) (name : BankName) : (s.useBank name).stations = s.stations := rfl
@[simp] theorem State.useBank_io (s : State) (name : BankName) : (s.useBank name).io = s.io := rfl
@[simp] theorem State.useBank_latched (s : State) (name : BankName) : (s.useBank name).latched = s.latched := rfl
@[simp] theorem State.useBank_params (s : State) (name : BankName) : (s.useBank name).params = s.params := rfl
@[simp] theorem State.useBank_resetCause (s : State) (name : BankName) : (s.useBank name).resetCause = s.resetCause := rfl
@[simp] theorem State.useBank_uptime (s : State) (name : BankName) : (s.useBank name).uptime = s.uptime := rfl
@[simp] theorem State.useBank_pending (s : State) (name : BankName) : (s.useBank name).pending = s.pending := rfl

/-! `leaveBank` -/
@[simp] theorem State.leaveBank_house (s : State) (name : BankName) : (s.leaveBank name).house = s.house := rfl
@[simp] theorem State.leaveBank_cards (s : State) (name : BankName) : (s.leaveBank name).cards = s.cards := rfl
@[simp] theorem State.leaveBank_mirrors (s : State) (name : BankName) : (s.leaveBank name).mirrors = s.mirrors := rfl
@[simp] theorem State.leaveBank_bankA (s : State) (name : BankName) : (s.leaveBank name).bankA = (if name = .a then { s.bank name with users := (s.bank name).users - 1 } else s.bankA) := rfl
@[simp] theorem State.leaveBank_bankB (s : State) (name : BankName) : (s.leaveBank name).bankB = (if name = .b then { s.bank name with users := (s.bank name).users - 1 } else s.bankB) := rfl
@[simp] theorem State.leaveBank_active (s : State) (name : BankName) : (s.leaveBank name).active = s.active := rfl
@[simp] theorem State.leaveBank_genCounter (s : State) (name : BankName) : (s.leaveBank name).genCounter = s.genCounter := rfl
@[simp] theorem State.leaveBank_runs (s : State) (name : BankName) : (s.leaveBank name).runs = s.runs := rfl
@[simp] theorem State.leaveBank_paths (s : State) (name : BankName) : (s.leaveBank name).paths = s.paths := rfl
@[simp] theorem State.leaveBank_jamTimers (s : State) (name : BankName) : (s.leaveBank name).jamTimers = s.jamTimers := rfl
@[simp] theorem State.leaveBank_lostTimers (s : State) (name : BankName) : (s.leaveBank name).lostTimers = s.lostTimers := rfl
@[simp] theorem State.leaveBank_sessions (s : State) (name : BankName) : (s.leaveBank name).sessions = s.sessions := rfl
@[simp] theorem State.leaveBank_captureQueue (s : State) (name : BankName) : (s.leaveBank name).captureQueue = s.captureQueue := rfl
@[simp] theorem State.leaveBank_closingWait (s : State) (name : BankName) : (s.leaveBank name).closingWait = s.closingWait := rfl
@[simp] theorem State.leaveBank_stallTimer (s : State) (name : BankName) : (s.leaveBank name).stallTimer = s.stallTimer := rfl
@[simp] theorem State.leaveBank_headAge (s : State) (name : BankName) : (s.leaveBank name).headAge = s.headAge := rfl
@[simp] theorem State.leaveBank_referrals (s : State) (name : BankName) : (s.leaveBank name).referrals = s.referrals := rfl
@[simp] theorem State.leaveBank_referralNextId (s : State) (name : BankName) : (s.leaveBank name).referralNextId = s.referralNextId := rfl
@[simp] theorem State.leaveBank_log (s : State) (name : BankName) : (s.leaveBank name).log = s.log := rfl
@[simp] theorem State.leaveBank_logNext (s : State) (name : BankName) : (s.leaveBank name).logNext = s.logNext := rfl
@[simp] theorem State.leaveBank_reserved (s : State) (name : BankName) : (s.leaveBank name).reserved = s.reserved := rfl
@[simp] theorem State.leaveBank_meters (s : State) (name : BankName) : (s.leaveBank name).meters = s.meters := rfl
@[simp] theorem State.leaveBank_stations (s : State) (name : BankName) : (s.leaveBank name).stations = s.stations := rfl
@[simp] theorem State.leaveBank_io (s : State) (name : BankName) : (s.leaveBank name).io = s.io := rfl
@[simp] theorem State.leaveBank_latched (s : State) (name : BankName) : (s.leaveBank name).latched = s.latched := rfl
@[simp] theorem State.leaveBank_params (s : State) (name : BankName) : (s.leaveBank name).params = s.params := rfl
@[simp] theorem State.leaveBank_resetCause (s : State) (name : BankName) : (s.leaveBank name).resetCause = s.resetCause := rfl
@[simp] theorem State.leaveBank_uptime (s : State) (name : BankName) : (s.leaveBank name).uptime = s.uptime := rfl
@[simp] theorem State.leaveBank_pending (s : State) (name : BankName) : (s.leaveBank name).pending = s.pending := rfl

/-! `setJob` -/
@[simp] theorem State.setJob_house (s : State) (st : Station) (j : Job) : (s.setJob st j).house = s.house := rfl
@[simp] theorem State.setJob_cards (s : State) (st : Station) (j : Job) : (s.setJob st j).cards = s.cards := rfl
@[simp] theorem State.setJob_mirrors (s : State) (st : Station) (j : Job) : (s.setJob st j).mirrors = s.mirrors := rfl
@[simp] theorem State.setJob_bankA (s : State) (st : Station) (j : Job) : (s.setJob st j).bankA = s.bankA := rfl
@[simp] theorem State.setJob_bankB (s : State) (st : Station) (j : Job) : (s.setJob st j).bankB = s.bankB := rfl
@[simp] theorem State.setJob_active (s : State) (st : Station) (j : Job) : (s.setJob st j).active = s.active := rfl
@[simp] theorem State.setJob_genCounter (s : State) (st : Station) (j : Job) : (s.setJob st j).genCounter = s.genCounter := rfl
@[simp] theorem State.setJob_runs (s : State) (st : Station) (j : Job) : (s.setJob st j).runs = (s.runs.set st { s.runs[st] with job := some j }) := rfl
@[simp] theorem State.setJob_paths (s : State) (st : Station) (j : Job) : (s.setJob st j).paths = s.paths := rfl
@[simp] theorem State.setJob_jamTimers (s : State) (st : Station) (j : Job) : (s.setJob st j).jamTimers = s.jamTimers := rfl
@[simp] theorem State.setJob_lostTimers (s : State) (st : Station) (j : Job) : (s.setJob st j).lostTimers = s.lostTimers := rfl
@[simp] theorem State.setJob_sessions (s : State) (st : Station) (j : Job) : (s.setJob st j).sessions = s.sessions := rfl
@[simp] theorem State.setJob_captureQueue (s : State) (st : Station) (j : Job) : (s.setJob st j).captureQueue = s.captureQueue := rfl
@[simp] theorem State.setJob_closingWait (s : State) (st : Station) (j : Job) : (s.setJob st j).closingWait = s.closingWait := rfl
@[simp] theorem State.setJob_stallTimer (s : State) (st : Station) (j : Job) : (s.setJob st j).stallTimer = s.stallTimer := rfl
@[simp] theorem State.setJob_headAge (s : State) (st : Station) (j : Job) : (s.setJob st j).headAge = s.headAge := rfl
@[simp] theorem State.setJob_referrals (s : State) (st : Station) (j : Job) : (s.setJob st j).referrals = s.referrals := rfl
@[simp] theorem State.setJob_referralNextId (s : State) (st : Station) (j : Job) : (s.setJob st j).referralNextId = s.referralNextId := rfl
@[simp] theorem State.setJob_log (s : State) (st : Station) (j : Job) : (s.setJob st j).log = s.log := rfl
@[simp] theorem State.setJob_logNext (s : State) (st : Station) (j : Job) : (s.setJob st j).logNext = s.logNext := rfl
@[simp] theorem State.setJob_reserved (s : State) (st : Station) (j : Job) : (s.setJob st j).reserved = s.reserved := rfl
@[simp] theorem State.setJob_meters (s : State) (st : Station) (j : Job) : (s.setJob st j).meters = s.meters := rfl
@[simp] theorem State.setJob_stations (s : State) (st : Station) (j : Job) : (s.setJob st j).stations = s.stations := rfl
@[simp] theorem State.setJob_io (s : State) (st : Station) (j : Job) : (s.setJob st j).io = s.io := rfl
@[simp] theorem State.setJob_latched (s : State) (st : Station) (j : Job) : (s.setJob st j).latched = s.latched := rfl
@[simp] theorem State.setJob_params (s : State) (st : Station) (j : Job) : (s.setJob st j).params = s.params := rfl
@[simp] theorem State.setJob_resetCause (s : State) (st : Station) (j : Job) : (s.setJob st j).resetCause = s.resetCause := rfl
@[simp] theorem State.setJob_uptime (s : State) (st : Station) (j : Job) : (s.setJob st j).uptime = s.uptime := rfl
@[simp] theorem State.setJob_pending (s : State) (st : Station) (j : Job) : (s.setJob st j).pending = s.pending := rfl

/-! `setRun` -/
@[simp] theorem State.setRun_house (s : State) (st : Station) (r : Run) : (s.setRun st r).house = s.house := rfl
@[simp] theorem State.setRun_cards (s : State) (st : Station) (r : Run) : (s.setRun st r).cards = s.cards := rfl
@[simp] theorem State.setRun_mirrors (s : State) (st : Station) (r : Run) : (s.setRun st r).mirrors = s.mirrors := rfl
@[simp] theorem State.setRun_bankA (s : State) (st : Station) (r : Run) : (s.setRun st r).bankA = s.bankA := rfl
@[simp] theorem State.setRun_bankB (s : State) (st : Station) (r : Run) : (s.setRun st r).bankB = s.bankB := rfl
@[simp] theorem State.setRun_active (s : State) (st : Station) (r : Run) : (s.setRun st r).active = s.active := rfl
@[simp] theorem State.setRun_genCounter (s : State) (st : Station) (r : Run) : (s.setRun st r).genCounter = s.genCounter := rfl
@[simp] theorem State.setRun_runs (s : State) (st : Station) (r : Run) : (s.setRun st r).runs = (s.runs.set st r) := rfl
@[simp] theorem State.setRun_paths (s : State) (st : Station) (r : Run) : (s.setRun st r).paths = s.paths := rfl
@[simp] theorem State.setRun_jamTimers (s : State) (st : Station) (r : Run) : (s.setRun st r).jamTimers = s.jamTimers := rfl
@[simp] theorem State.setRun_lostTimers (s : State) (st : Station) (r : Run) : (s.setRun st r).lostTimers = s.lostTimers := rfl
@[simp] theorem State.setRun_sessions (s : State) (st : Station) (r : Run) : (s.setRun st r).sessions = s.sessions := rfl
@[simp] theorem State.setRun_captureQueue (s : State) (st : Station) (r : Run) : (s.setRun st r).captureQueue = s.captureQueue := rfl
@[simp] theorem State.setRun_closingWait (s : State) (st : Station) (r : Run) : (s.setRun st r).closingWait = s.closingWait := rfl
@[simp] theorem State.setRun_stallTimer (s : State) (st : Station) (r : Run) : (s.setRun st r).stallTimer = s.stallTimer := rfl
@[simp] theorem State.setRun_headAge (s : State) (st : Station) (r : Run) : (s.setRun st r).headAge = s.headAge := rfl
@[simp] theorem State.setRun_referrals (s : State) (st : Station) (r : Run) : (s.setRun st r).referrals = s.referrals := rfl
@[simp] theorem State.setRun_referralNextId (s : State) (st : Station) (r : Run) : (s.setRun st r).referralNextId = s.referralNextId := rfl
@[simp] theorem State.setRun_log (s : State) (st : Station) (r : Run) : (s.setRun st r).log = s.log := rfl
@[simp] theorem State.setRun_logNext (s : State) (st : Station) (r : Run) : (s.setRun st r).logNext = s.logNext := rfl
@[simp] theorem State.setRun_reserved (s : State) (st : Station) (r : Run) : (s.setRun st r).reserved = s.reserved := rfl
@[simp] theorem State.setRun_meters (s : State) (st : Station) (r : Run) : (s.setRun st r).meters = s.meters := rfl
@[simp] theorem State.setRun_stations (s : State) (st : Station) (r : Run) : (s.setRun st r).stations = s.stations := rfl
@[simp] theorem State.setRun_io (s : State) (st : Station) (r : Run) : (s.setRun st r).io = s.io := rfl
@[simp] theorem State.setRun_latched (s : State) (st : Station) (r : Run) : (s.setRun st r).latched = s.latched := rfl
@[simp] theorem State.setRun_params (s : State) (st : Station) (r : Run) : (s.setRun st r).params = s.params := rfl
@[simp] theorem State.setRun_resetCause (s : State) (st : Station) (r : Run) : (s.setRun st r).resetCause = s.resetCause := rfl
@[simp] theorem State.setRun_uptime (s : State) (st : Station) (r : Run) : (s.setRun st r).uptime = s.uptime := rfl
@[simp] theorem State.setRun_pending (s : State) (st : Station) (r : Run) : (s.setRun st r).pending = s.pending := rfl

/-! `idleRun` -/
@[simp] theorem State.idleRun_house (s : State) (st : Station) : (s.idleRun st).house = s.house := rfl
@[simp] theorem State.idleRun_cards (s : State) (st : Station) : (s.idleRun st).cards = s.cards := rfl
@[simp] theorem State.idleRun_mirrors (s : State) (st : Station) : (s.idleRun st).mirrors = s.mirrors := rfl
@[simp] theorem State.idleRun_bankA (s : State) (st : Station) : (s.idleRun st).bankA = s.bankA := rfl
@[simp] theorem State.idleRun_bankB (s : State) (st : Station) : (s.idleRun st).bankB = s.bankB := rfl
@[simp] theorem State.idleRun_active (s : State) (st : Station) : (s.idleRun st).active = s.active := rfl
@[simp] theorem State.idleRun_genCounter (s : State) (st : Station) : (s.idleRun st).genCounter = s.genCounter := rfl
@[simp] theorem State.idleRun_runs (s : State) (st : Station) : (s.idleRun st).runs = (s.runs.set st { s.runs[st] with job := none }) := rfl
@[simp] theorem State.idleRun_paths (s : State) (st : Station) : (s.idleRun st).paths = s.paths := rfl
@[simp] theorem State.idleRun_jamTimers (s : State) (st : Station) : (s.idleRun st).jamTimers = s.jamTimers := rfl
@[simp] theorem State.idleRun_lostTimers (s : State) (st : Station) : (s.idleRun st).lostTimers = s.lostTimers := rfl
@[simp] theorem State.idleRun_sessions (s : State) (st : Station) : (s.idleRun st).sessions = s.sessions := rfl
@[simp] theorem State.idleRun_captureQueue (s : State) (st : Station) : (s.idleRun st).captureQueue = s.captureQueue := rfl
@[simp] theorem State.idleRun_closingWait (s : State) (st : Station) : (s.idleRun st).closingWait = s.closingWait := rfl
@[simp] theorem State.idleRun_stallTimer (s : State) (st : Station) : (s.idleRun st).stallTimer = s.stallTimer := rfl
@[simp] theorem State.idleRun_headAge (s : State) (st : Station) : (s.idleRun st).headAge = s.headAge := rfl
@[simp] theorem State.idleRun_referrals (s : State) (st : Station) : (s.idleRun st).referrals = s.referrals := rfl
@[simp] theorem State.idleRun_referralNextId (s : State) (st : Station) : (s.idleRun st).referralNextId = s.referralNextId := rfl
@[simp] theorem State.idleRun_log (s : State) (st : Station) : (s.idleRun st).log = s.log := rfl
@[simp] theorem State.idleRun_logNext (s : State) (st : Station) : (s.idleRun st).logNext = s.logNext := rfl
@[simp] theorem State.idleRun_reserved (s : State) (st : Station) : (s.idleRun st).reserved = s.reserved := rfl
@[simp] theorem State.idleRun_meters (s : State) (st : Station) : (s.idleRun st).meters = s.meters := rfl
@[simp] theorem State.idleRun_stations (s : State) (st : Station) : (s.idleRun st).stations = s.stations := rfl
@[simp] theorem State.idleRun_io (s : State) (st : Station) : (s.idleRun st).io = s.io := rfl
@[simp] theorem State.idleRun_latched (s : State) (st : Station) : (s.idleRun st).latched = s.latched := rfl
@[simp] theorem State.idleRun_params (s : State) (st : Station) : (s.idleRun st).params = s.params := rfl
@[simp] theorem State.idleRun_resetCause (s : State) (st : Station) : (s.idleRun st).resetCause = s.resetCause := rfl
@[simp] theorem State.idleRun_uptime (s : State) (st : Station) : (s.idleRun st).uptime = s.uptime := rfl
@[simp] theorem State.idleRun_pending (s : State) (st : Station) : (s.idleRun st).pending = s.pending := rfl

/-! `setPath` -/
@[simp] theorem State.setPath_house (s : State) (st : Station) (p : List PathEntry) : (s.setPath st p).house = s.house := rfl
@[simp] theorem State.setPath_cards (s : State) (st : Station) (p : List PathEntry) : (s.setPath st p).cards = s.cards := rfl
@[simp] theorem State.setPath_mirrors (s : State) (st : Station) (p : List PathEntry) : (s.setPath st p).mirrors = s.mirrors := rfl
@[simp] theorem State.setPath_bankA (s : State) (st : Station) (p : List PathEntry) : (s.setPath st p).bankA = s.bankA := rfl
@[simp] theorem State.setPath_bankB (s : State) (st : Station) (p : List PathEntry) : (s.setPath st p).bankB = s.bankB := rfl
@[simp] theorem State.setPath_active (s : State) (st : Station) (p : List PathEntry) : (s.setPath st p).active = s.active := rfl
@[simp] theorem State.setPath_genCounter (s : State) (st : Station) (p : List PathEntry) : (s.setPath st p).genCounter = s.genCounter := rfl
@[simp] theorem State.setPath_runs (s : State) (st : Station) (p : List PathEntry) : (s.setPath st p).runs = s.runs := rfl
@[simp] theorem State.setPath_paths (s : State) (st : Station) (p : List PathEntry) : (s.setPath st p).paths = (s.paths.set st p) := rfl
@[simp] theorem State.setPath_jamTimers (s : State) (st : Station) (p : List PathEntry) : (s.setPath st p).jamTimers = s.jamTimers := rfl
@[simp] theorem State.setPath_lostTimers (s : State) (st : Station) (p : List PathEntry) : (s.setPath st p).lostTimers = s.lostTimers := rfl
@[simp] theorem State.setPath_sessions (s : State) (st : Station) (p : List PathEntry) : (s.setPath st p).sessions = s.sessions := rfl
@[simp] theorem State.setPath_captureQueue (s : State) (st : Station) (p : List PathEntry) : (s.setPath st p).captureQueue = s.captureQueue := rfl
@[simp] theorem State.setPath_closingWait (s : State) (st : Station) (p : List PathEntry) : (s.setPath st p).closingWait = s.closingWait := rfl
@[simp] theorem State.setPath_stallTimer (s : State) (st : Station) (p : List PathEntry) : (s.setPath st p).stallTimer = s.stallTimer := rfl
@[simp] theorem State.setPath_headAge (s : State) (st : Station) (p : List PathEntry) : (s.setPath st p).headAge = s.headAge := rfl
@[simp] theorem State.setPath_referrals (s : State) (st : Station) (p : List PathEntry) : (s.setPath st p).referrals = s.referrals := rfl
@[simp] theorem State.setPath_referralNextId (s : State) (st : Station) (p : List PathEntry) : (s.setPath st p).referralNextId = s.referralNextId := rfl
@[simp] theorem State.setPath_log (s : State) (st : Station) (p : List PathEntry) : (s.setPath st p).log = s.log := rfl
@[simp] theorem State.setPath_logNext (s : State) (st : Station) (p : List PathEntry) : (s.setPath st p).logNext = s.logNext := rfl
@[simp] theorem State.setPath_reserved (s : State) (st : Station) (p : List PathEntry) : (s.setPath st p).reserved = s.reserved := rfl
@[simp] theorem State.setPath_meters (s : State) (st : Station) (p : List PathEntry) : (s.setPath st p).meters = s.meters := rfl
@[simp] theorem State.setPath_stations (s : State) (st : Station) (p : List PathEntry) : (s.setPath st p).stations = s.stations := rfl
@[simp] theorem State.setPath_io (s : State) (st : Station) (p : List PathEntry) : (s.setPath st p).io = s.io := rfl
@[simp] theorem State.setPath_latched (s : State) (st : Station) (p : List PathEntry) : (s.setPath st p).latched = s.latched := rfl
@[simp] theorem State.setPath_params (s : State) (st : Station) (p : List PathEntry) : (s.setPath st p).params = s.params := rfl
@[simp] theorem State.setPath_resetCause (s : State) (st : Station) (p : List PathEntry) : (s.setPath st p).resetCause = s.resetCause := rfl
@[simp] theorem State.setPath_uptime (s : State) (st : Station) (p : List PathEntry) : (s.setPath st p).uptime = s.uptime := rfl
@[simp] theorem State.setPath_pending (s : State) (st : Station) (p : List PathEntry) : (s.setPath st p).pending = s.pending := rfl

/-! `setJamTimer` -/
@[simp] theorem State.setJamTimer_house (s : State) (st : Station) (x : Option Nat) : (s.setJamTimer st x).house = s.house := rfl
@[simp] theorem State.setJamTimer_cards (s : State) (st : Station) (x : Option Nat) : (s.setJamTimer st x).cards = s.cards := rfl
@[simp] theorem State.setJamTimer_mirrors (s : State) (st : Station) (x : Option Nat) : (s.setJamTimer st x).mirrors = s.mirrors := rfl
@[simp] theorem State.setJamTimer_bankA (s : State) (st : Station) (x : Option Nat) : (s.setJamTimer st x).bankA = s.bankA := rfl
@[simp] theorem State.setJamTimer_bankB (s : State) (st : Station) (x : Option Nat) : (s.setJamTimer st x).bankB = s.bankB := rfl
@[simp] theorem State.setJamTimer_active (s : State) (st : Station) (x : Option Nat) : (s.setJamTimer st x).active = s.active := rfl
@[simp] theorem State.setJamTimer_genCounter (s : State) (st : Station) (x : Option Nat) : (s.setJamTimer st x).genCounter = s.genCounter := rfl
@[simp] theorem State.setJamTimer_runs (s : State) (st : Station) (x : Option Nat) : (s.setJamTimer st x).runs = s.runs := rfl
@[simp] theorem State.setJamTimer_paths (s : State) (st : Station) (x : Option Nat) : (s.setJamTimer st x).paths = s.paths := rfl
@[simp] theorem State.setJamTimer_jamTimers (s : State) (st : Station) (x : Option Nat) : (s.setJamTimer st x).jamTimers = (s.jamTimers.set st x) := rfl
@[simp] theorem State.setJamTimer_lostTimers (s : State) (st : Station) (x : Option Nat) : (s.setJamTimer st x).lostTimers = s.lostTimers := rfl
@[simp] theorem State.setJamTimer_sessions (s : State) (st : Station) (x : Option Nat) : (s.setJamTimer st x).sessions = s.sessions := rfl
@[simp] theorem State.setJamTimer_captureQueue (s : State) (st : Station) (x : Option Nat) : (s.setJamTimer st x).captureQueue = s.captureQueue := rfl
@[simp] theorem State.setJamTimer_closingWait (s : State) (st : Station) (x : Option Nat) : (s.setJamTimer st x).closingWait = s.closingWait := rfl
@[simp] theorem State.setJamTimer_stallTimer (s : State) (st : Station) (x : Option Nat) : (s.setJamTimer st x).stallTimer = s.stallTimer := rfl
@[simp] theorem State.setJamTimer_headAge (s : State) (st : Station) (x : Option Nat) : (s.setJamTimer st x).headAge = s.headAge := rfl
@[simp] theorem State.setJamTimer_referrals (s : State) (st : Station) (x : Option Nat) : (s.setJamTimer st x).referrals = s.referrals := rfl
@[simp] theorem State.setJamTimer_referralNextId (s : State) (st : Station) (x : Option Nat) : (s.setJamTimer st x).referralNextId = s.referralNextId := rfl
@[simp] theorem State.setJamTimer_log (s : State) (st : Station) (x : Option Nat) : (s.setJamTimer st x).log = s.log := rfl
@[simp] theorem State.setJamTimer_logNext (s : State) (st : Station) (x : Option Nat) : (s.setJamTimer st x).logNext = s.logNext := rfl
@[simp] theorem State.setJamTimer_reserved (s : State) (st : Station) (x : Option Nat) : (s.setJamTimer st x).reserved = s.reserved := rfl
@[simp] theorem State.setJamTimer_meters (s : State) (st : Station) (x : Option Nat) : (s.setJamTimer st x).meters = s.meters := rfl
@[simp] theorem State.setJamTimer_stations (s : State) (st : Station) (x : Option Nat) : (s.setJamTimer st x).stations = s.stations := rfl
@[simp] theorem State.setJamTimer_io (s : State) (st : Station) (x : Option Nat) : (s.setJamTimer st x).io = s.io := rfl
@[simp] theorem State.setJamTimer_latched (s : State) (st : Station) (x : Option Nat) : (s.setJamTimer st x).latched = s.latched := rfl
@[simp] theorem State.setJamTimer_params (s : State) (st : Station) (x : Option Nat) : (s.setJamTimer st x).params = s.params := rfl
@[simp] theorem State.setJamTimer_resetCause (s : State) (st : Station) (x : Option Nat) : (s.setJamTimer st x).resetCause = s.resetCause := rfl
@[simp] theorem State.setJamTimer_uptime (s : State) (st : Station) (x : Option Nat) : (s.setJamTimer st x).uptime = s.uptime := rfl
@[simp] theorem State.setJamTimer_pending (s : State) (st : Station) (x : Option Nat) : (s.setJamTimer st x).pending = s.pending := rfl

/-! `setLostTimer` -/
@[simp] theorem State.setLostTimer_house (s : State) (st : Station) (x : Option Nat) : (s.setLostTimer st x).house = s.house := rfl
@[simp] theorem State.setLostTimer_cards (s : State) (st : Station) (x : Option Nat) : (s.setLostTimer st x).cards = s.cards := rfl
@[simp] theorem State.setLostTimer_mirrors (s : State) (st : Station) (x : Option Nat) : (s.setLostTimer st x).mirrors = s.mirrors := rfl
@[simp] theorem State.setLostTimer_bankA (s : State) (st : Station) (x : Option Nat) : (s.setLostTimer st x).bankA = s.bankA := rfl
@[simp] theorem State.setLostTimer_bankB (s : State) (st : Station) (x : Option Nat) : (s.setLostTimer st x).bankB = s.bankB := rfl
@[simp] theorem State.setLostTimer_active (s : State) (st : Station) (x : Option Nat) : (s.setLostTimer st x).active = s.active := rfl
@[simp] theorem State.setLostTimer_genCounter (s : State) (st : Station) (x : Option Nat) : (s.setLostTimer st x).genCounter = s.genCounter := rfl
@[simp] theorem State.setLostTimer_runs (s : State) (st : Station) (x : Option Nat) : (s.setLostTimer st x).runs = s.runs := rfl
@[simp] theorem State.setLostTimer_paths (s : State) (st : Station) (x : Option Nat) : (s.setLostTimer st x).paths = s.paths := rfl
@[simp] theorem State.setLostTimer_jamTimers (s : State) (st : Station) (x : Option Nat) : (s.setLostTimer st x).jamTimers = s.jamTimers := rfl
@[simp] theorem State.setLostTimer_lostTimers (s : State) (st : Station) (x : Option Nat) : (s.setLostTimer st x).lostTimers = (s.lostTimers.set st x) := rfl
@[simp] theorem State.setLostTimer_sessions (s : State) (st : Station) (x : Option Nat) : (s.setLostTimer st x).sessions = s.sessions := rfl
@[simp] theorem State.setLostTimer_captureQueue (s : State) (st : Station) (x : Option Nat) : (s.setLostTimer st x).captureQueue = s.captureQueue := rfl
@[simp] theorem State.setLostTimer_closingWait (s : State) (st : Station) (x : Option Nat) : (s.setLostTimer st x).closingWait = s.closingWait := rfl
@[simp] theorem State.setLostTimer_stallTimer (s : State) (st : Station) (x : Option Nat) : (s.setLostTimer st x).stallTimer = s.stallTimer := rfl
@[simp] theorem State.setLostTimer_headAge (s : State) (st : Station) (x : Option Nat) : (s.setLostTimer st x).headAge = s.headAge := rfl
@[simp] theorem State.setLostTimer_referrals (s : State) (st : Station) (x : Option Nat) : (s.setLostTimer st x).referrals = s.referrals := rfl
@[simp] theorem State.setLostTimer_referralNextId (s : State) (st : Station) (x : Option Nat) : (s.setLostTimer st x).referralNextId = s.referralNextId := rfl
@[simp] theorem State.setLostTimer_log (s : State) (st : Station) (x : Option Nat) : (s.setLostTimer st x).log = s.log := rfl
@[simp] theorem State.setLostTimer_logNext (s : State) (st : Station) (x : Option Nat) : (s.setLostTimer st x).logNext = s.logNext := rfl
@[simp] theorem State.setLostTimer_reserved (s : State) (st : Station) (x : Option Nat) : (s.setLostTimer st x).reserved = s.reserved := rfl
@[simp] theorem State.setLostTimer_meters (s : State) (st : Station) (x : Option Nat) : (s.setLostTimer st x).meters = s.meters := rfl
@[simp] theorem State.setLostTimer_stations (s : State) (st : Station) (x : Option Nat) : (s.setLostTimer st x).stations = s.stations := rfl
@[simp] theorem State.setLostTimer_io (s : State) (st : Station) (x : Option Nat) : (s.setLostTimer st x).io = s.io := rfl
@[simp] theorem State.setLostTimer_latched (s : State) (st : Station) (x : Option Nat) : (s.setLostTimer st x).latched = s.latched := rfl
@[simp] theorem State.setLostTimer_params (s : State) (st : Station) (x : Option Nat) : (s.setLostTimer st x).params = s.params := rfl
@[simp] theorem State.setLostTimer_resetCause (s : State) (st : Station) (x : Option Nat) : (s.setLostTimer st x).resetCause = s.resetCause := rfl
@[simp] theorem State.setLostTimer_uptime (s : State) (st : Station) (x : Option Nat) : (s.setLostTimer st x).uptime = s.uptime := rfl
@[simp] theorem State.setLostTimer_pending (s : State) (st : Station) (x : Option Nat) : (s.setLostTimer st x).pending = s.pending := rfl

/-! `stopRunTimers` -/
@[simp] theorem State.stopRunTimers_house (s : State) (st : Station) : (s.stopRunTimers st).house = s.house := rfl
@[simp] theorem State.stopRunTimers_cards (s : State) (st : Station) : (s.stopRunTimers st).cards = s.cards := rfl
@[simp] theorem State.stopRunTimers_mirrors (s : State) (st : Station) : (s.stopRunTimers st).mirrors = s.mirrors := rfl
@[simp] theorem State.stopRunTimers_bankA (s : State) (st : Station) : (s.stopRunTimers st).bankA = s.bankA := rfl
@[simp] theorem State.stopRunTimers_bankB (s : State) (st : Station) : (s.stopRunTimers st).bankB = s.bankB := rfl
@[simp] theorem State.stopRunTimers_active (s : State) (st : Station) : (s.stopRunTimers st).active = s.active := rfl
@[simp] theorem State.stopRunTimers_genCounter (s : State) (st : Station) : (s.stopRunTimers st).genCounter = s.genCounter := rfl
@[simp] theorem State.stopRunTimers_runs (s : State) (st : Station) : (s.stopRunTimers st).runs = s.runs := rfl
@[simp] theorem State.stopRunTimers_paths (s : State) (st : Station) : (s.stopRunTimers st).paths = s.paths := rfl
@[simp] theorem State.stopRunTimers_jamTimers (s : State) (st : Station) : (s.stopRunTimers st).jamTimers = (s.jamTimers.set st none) := rfl
@[simp] theorem State.stopRunTimers_lostTimers (s : State) (st : Station) : (s.stopRunTimers st).lostTimers = (s.lostTimers.set st none) := rfl
@[simp] theorem State.stopRunTimers_sessions (s : State) (st : Station) : (s.stopRunTimers st).sessions = s.sessions := rfl
@[simp] theorem State.stopRunTimers_captureQueue (s : State) (st : Station) : (s.stopRunTimers st).captureQueue = s.captureQueue := rfl
@[simp] theorem State.stopRunTimers_closingWait (s : State) (st : Station) : (s.stopRunTimers st).closingWait = s.closingWait := rfl
@[simp] theorem State.stopRunTimers_stallTimer (s : State) (st : Station) : (s.stopRunTimers st).stallTimer = s.stallTimer := rfl
@[simp] theorem State.stopRunTimers_headAge (s : State) (st : Station) : (s.stopRunTimers st).headAge = s.headAge := rfl
@[simp] theorem State.stopRunTimers_referrals (s : State) (st : Station) : (s.stopRunTimers st).referrals = s.referrals := rfl
@[simp] theorem State.stopRunTimers_referralNextId (s : State) (st : Station) : (s.stopRunTimers st).referralNextId = s.referralNextId := rfl
@[simp] theorem State.stopRunTimers_log (s : State) (st : Station) : (s.stopRunTimers st).log = s.log := rfl
@[simp] theorem State.stopRunTimers_logNext (s : State) (st : Station) : (s.stopRunTimers st).logNext = s.logNext := rfl
@[simp] theorem State.stopRunTimers_reserved (s : State) (st : Station) : (s.stopRunTimers st).reserved = s.reserved := rfl
@[simp] theorem State.stopRunTimers_meters (s : State) (st : Station) : (s.stopRunTimers st).meters = s.meters := rfl
@[simp] theorem State.stopRunTimers_stations (s : State) (st : Station) : (s.stopRunTimers st).stations = s.stations := rfl
@[simp] theorem State.stopRunTimers_io (s : State) (st : Station) : (s.stopRunTimers st).io = s.io := rfl
@[simp] theorem State.stopRunTimers_latched (s : State) (st : Station) : (s.stopRunTimers st).latched = s.latched := rfl
@[simp] theorem State.stopRunTimers_params (s : State) (st : Station) : (s.stopRunTimers st).params = s.params := rfl
@[simp] theorem State.stopRunTimers_resetCause (s : State) (st : Station) : (s.stopRunTimers st).resetCause = s.resetCause := rfl
@[simp] theorem State.stopRunTimers_uptime (s : State) (st : Station) : (s.stopRunTimers st).uptime = s.uptime := rfl
@[simp] theorem State.stopRunTimers_pending (s : State) (st : Station) : (s.stopRunTimers st).pending = s.pending := rfl

/-! `setStation` -/
@[simp] theorem State.setStation_house (s : State) (st : Station) (r : StationRecord) : (s.setStation st r).house = s.house := rfl
@[simp] theorem State.setStation_cards (s : State) (st : Station) (r : StationRecord) : (s.setStation st r).cards = s.cards := rfl
@[simp] theorem State.setStation_mirrors (s : State) (st : Station) (r : StationRecord) : (s.setStation st r).mirrors = s.mirrors := rfl
@[simp] theorem State.setStation_bankA (s : State) (st : Station) (r : StationRecord) : (s.setStation st r).bankA = s.bankA := rfl
@[simp] theorem State.setStation_bankB (s : State) (st : Station) (r : StationRecord) : (s.setStation st r).bankB = s.bankB := rfl
@[simp] theorem State.setStation_active (s : State) (st : Station) (r : StationRecord) : (s.setStation st r).active = s.active := rfl
@[simp] theorem State.setStation_genCounter (s : State) (st : Station) (r : StationRecord) : (s.setStation st r).genCounter = s.genCounter := rfl
@[simp] theorem State.setStation_runs (s : State) (st : Station) (r : StationRecord) : (s.setStation st r).runs = s.runs := rfl
@[simp] theorem State.setStation_paths (s : State) (st : Station) (r : StationRecord) : (s.setStation st r).paths = s.paths := rfl
@[simp] theorem State.setStation_jamTimers (s : State) (st : Station) (r : StationRecord) : (s.setStation st r).jamTimers = s.jamTimers := rfl
@[simp] theorem State.setStation_lostTimers (s : State) (st : Station) (r : StationRecord) : (s.setStation st r).lostTimers = s.lostTimers := rfl
@[simp] theorem State.setStation_sessions (s : State) (st : Station) (r : StationRecord) : (s.setStation st r).sessions = s.sessions := rfl
@[simp] theorem State.setStation_captureQueue (s : State) (st : Station) (r : StationRecord) : (s.setStation st r).captureQueue = s.captureQueue := rfl
@[simp] theorem State.setStation_closingWait (s : State) (st : Station) (r : StationRecord) : (s.setStation st r).closingWait = s.closingWait := rfl
@[simp] theorem State.setStation_stallTimer (s : State) (st : Station) (r : StationRecord) : (s.setStation st r).stallTimer = s.stallTimer := rfl
@[simp] theorem State.setStation_headAge (s : State) (st : Station) (r : StationRecord) : (s.setStation st r).headAge = s.headAge := rfl
@[simp] theorem State.setStation_referrals (s : State) (st : Station) (r : StationRecord) : (s.setStation st r).referrals = s.referrals := rfl
@[simp] theorem State.setStation_referralNextId (s : State) (st : Station) (r : StationRecord) : (s.setStation st r).referralNextId = s.referralNextId := rfl
@[simp] theorem State.setStation_log (s : State) (st : Station) (r : StationRecord) : (s.setStation st r).log = s.log := rfl
@[simp] theorem State.setStation_logNext (s : State) (st : Station) (r : StationRecord) : (s.setStation st r).logNext = s.logNext := rfl
@[simp] theorem State.setStation_reserved (s : State) (st : Station) (r : StationRecord) : (s.setStation st r).reserved = s.reserved := rfl
@[simp] theorem State.setStation_meters (s : State) (st : Station) (r : StationRecord) : (s.setStation st r).meters = s.meters := rfl
@[simp] theorem State.setStation_stations (s : State) (st : Station) (r : StationRecord) : (s.setStation st r).stations = (s.stations.set st r) := rfl
@[simp] theorem State.setStation_io (s : State) (st : Station) (r : StationRecord) : (s.setStation st r).io = s.io := rfl
@[simp] theorem State.setStation_latched (s : State) (st : Station) (r : StationRecord) : (s.setStation st r).latched = s.latched := rfl
@[simp] theorem State.setStation_params (s : State) (st : Station) (r : StationRecord) : (s.setStation st r).params = s.params := rfl
@[simp] theorem State.setStation_resetCause (s : State) (st : Station) (r : StationRecord) : (s.setStation st r).resetCause = s.resetCause := rfl
@[simp] theorem State.setStation_uptime (s : State) (st : Station) (r : StationRecord) : (s.setStation st r).uptime = s.uptime := rfl
@[simp] theorem State.setStation_pending (s : State) (st : Station) (r : StationRecord) : (s.setStation st r).pending = s.pending := rfl

/-! `setSession` -/
@[simp] theorem State.setSession_house (s : State) (st : Station) (x : Option Session) : (s.setSession st x).house = s.house := rfl
@[simp] theorem State.setSession_cards (s : State) (st : Station) (x : Option Session) : (s.setSession st x).cards = s.cards := rfl
@[simp] theorem State.setSession_mirrors (s : State) (st : Station) (x : Option Session) : (s.setSession st x).mirrors = s.mirrors := rfl
@[simp] theorem State.setSession_bankA (s : State) (st : Station) (x : Option Session) : (s.setSession st x).bankA = s.bankA := rfl
@[simp] theorem State.setSession_bankB (s : State) (st : Station) (x : Option Session) : (s.setSession st x).bankB = s.bankB := rfl
@[simp] theorem State.setSession_active (s : State) (st : Station) (x : Option Session) : (s.setSession st x).active = s.active := rfl
@[simp] theorem State.setSession_genCounter (s : State) (st : Station) (x : Option Session) : (s.setSession st x).genCounter = s.genCounter := rfl
@[simp] theorem State.setSession_runs (s : State) (st : Station) (x : Option Session) : (s.setSession st x).runs = s.runs := rfl
@[simp] theorem State.setSession_paths (s : State) (st : Station) (x : Option Session) : (s.setSession st x).paths = s.paths := rfl
@[simp] theorem State.setSession_jamTimers (s : State) (st : Station) (x : Option Session) : (s.setSession st x).jamTimers = s.jamTimers := rfl
@[simp] theorem State.setSession_lostTimers (s : State) (st : Station) (x : Option Session) : (s.setSession st x).lostTimers = s.lostTimers := rfl
@[simp] theorem State.setSession_sessions (s : State) (st : Station) (x : Option Session) : (s.setSession st x).sessions = (s.sessions.set st x) := rfl
@[simp] theorem State.setSession_captureQueue (s : State) (st : Station) (x : Option Session) : (s.setSession st x).captureQueue = s.captureQueue := rfl
@[simp] theorem State.setSession_closingWait (s : State) (st : Station) (x : Option Session) : (s.setSession st x).closingWait = s.closingWait := rfl
@[simp] theorem State.setSession_stallTimer (s : State) (st : Station) (x : Option Session) : (s.setSession st x).stallTimer = s.stallTimer := rfl
@[simp] theorem State.setSession_headAge (s : State) (st : Station) (x : Option Session) : (s.setSession st x).headAge = s.headAge := rfl
@[simp] theorem State.setSession_referrals (s : State) (st : Station) (x : Option Session) : (s.setSession st x).referrals = s.referrals := rfl
@[simp] theorem State.setSession_referralNextId (s : State) (st : Station) (x : Option Session) : (s.setSession st x).referralNextId = s.referralNextId := rfl
@[simp] theorem State.setSession_log (s : State) (st : Station) (x : Option Session) : (s.setSession st x).log = s.log := rfl
@[simp] theorem State.setSession_logNext (s : State) (st : Station) (x : Option Session) : (s.setSession st x).logNext = s.logNext := rfl
@[simp] theorem State.setSession_reserved (s : State) (st : Station) (x : Option Session) : (s.setSession st x).reserved = s.reserved := rfl
@[simp] theorem State.setSession_meters (s : State) (st : Station) (x : Option Session) : (s.setSession st x).meters = s.meters := rfl
@[simp] theorem State.setSession_stations (s : State) (st : Station) (x : Option Session) : (s.setSession st x).stations = s.stations := rfl
@[simp] theorem State.setSession_io (s : State) (st : Station) (x : Option Session) : (s.setSession st x).io = s.io := rfl
@[simp] theorem State.setSession_latched (s : State) (st : Station) (x : Option Session) : (s.setSession st x).latched = s.latched := rfl
@[simp] theorem State.setSession_params (s : State) (st : Station) (x : Option Session) : (s.setSession st x).params = s.params := rfl
@[simp] theorem State.setSession_resetCause (s : State) (st : Station) (x : Option Session) : (s.setSession st x).resetCause = s.resetCause := rfl
@[simp] theorem State.setSession_uptime (s : State) (st : Station) (x : Option Session) : (s.setSession st x).uptime = s.uptime := rfl
@[simp] theorem State.setSession_pending (s : State) (st : Station) (x : Option Session) : (s.setSession st x).pending = s.pending := rfl

/-! `setCard` -/
@[simp] theorem State.setCard_house (s : State) (st : Station) (c : Option Credit) : (s.setCard st c).house = s.house := rfl
@[simp] theorem State.setCard_cards (s : State) (st : Station) (c : Option Credit) : (s.setCard st c).cards = (s.cards.set st c) := rfl
@[simp] theorem State.setCard_mirrors (s : State) (st : Station) (c : Option Credit) : (s.setCard st c).mirrors = s.mirrors := rfl
@[simp] theorem State.setCard_bankA (s : State) (st : Station) (c : Option Credit) : (s.setCard st c).bankA = s.bankA := rfl
@[simp] theorem State.setCard_bankB (s : State) (st : Station) (c : Option Credit) : (s.setCard st c).bankB = s.bankB := rfl
@[simp] theorem State.setCard_active (s : State) (st : Station) (c : Option Credit) : (s.setCard st c).active = s.active := rfl
@[simp] theorem State.setCard_genCounter (s : State) (st : Station) (c : Option Credit) : (s.setCard st c).genCounter = s.genCounter := rfl
@[simp] theorem State.setCard_runs (s : State) (st : Station) (c : Option Credit) : (s.setCard st c).runs = s.runs := rfl
@[simp] theorem State.setCard_paths (s : State) (st : Station) (c : Option Credit) : (s.setCard st c).paths = s.paths := rfl
@[simp] theorem State.setCard_jamTimers (s : State) (st : Station) (c : Option Credit) : (s.setCard st c).jamTimers = s.jamTimers := rfl
@[simp] theorem State.setCard_lostTimers (s : State) (st : Station) (c : Option Credit) : (s.setCard st c).lostTimers = s.lostTimers := rfl
@[simp] theorem State.setCard_sessions (s : State) (st : Station) (c : Option Credit) : (s.setCard st c).sessions = s.sessions := rfl
@[simp] theorem State.setCard_captureQueue (s : State) (st : Station) (c : Option Credit) : (s.setCard st c).captureQueue = s.captureQueue := rfl
@[simp] theorem State.setCard_closingWait (s : State) (st : Station) (c : Option Credit) : (s.setCard st c).closingWait = s.closingWait := rfl
@[simp] theorem State.setCard_stallTimer (s : State) (st : Station) (c : Option Credit) : (s.setCard st c).stallTimer = s.stallTimer := rfl
@[simp] theorem State.setCard_headAge (s : State) (st : Station) (c : Option Credit) : (s.setCard st c).headAge = s.headAge := rfl
@[simp] theorem State.setCard_referrals (s : State) (st : Station) (c : Option Credit) : (s.setCard st c).referrals = s.referrals := rfl
@[simp] theorem State.setCard_referralNextId (s : State) (st : Station) (c : Option Credit) : (s.setCard st c).referralNextId = s.referralNextId := rfl
@[simp] theorem State.setCard_log (s : State) (st : Station) (c : Option Credit) : (s.setCard st c).log = s.log := rfl
@[simp] theorem State.setCard_logNext (s : State) (st : Station) (c : Option Credit) : (s.setCard st c).logNext = s.logNext := rfl
@[simp] theorem State.setCard_reserved (s : State) (st : Station) (c : Option Credit) : (s.setCard st c).reserved = s.reserved := rfl
@[simp] theorem State.setCard_meters (s : State) (st : Station) (c : Option Credit) : (s.setCard st c).meters = s.meters := rfl
@[simp] theorem State.setCard_stations (s : State) (st : Station) (c : Option Credit) : (s.setCard st c).stations = s.stations := rfl
@[simp] theorem State.setCard_io (s : State) (st : Station) (c : Option Credit) : (s.setCard st c).io = s.io := rfl
@[simp] theorem State.setCard_latched (s : State) (st : Station) (c : Option Credit) : (s.setCard st c).latched = s.latched := rfl
@[simp] theorem State.setCard_params (s : State) (st : Station) (c : Option Credit) : (s.setCard st c).params = s.params := rfl
@[simp] theorem State.setCard_resetCause (s : State) (st : Station) (c : Option Credit) : (s.setCard st c).resetCause = s.resetCause := rfl
@[simp] theorem State.setCard_uptime (s : State) (st : Station) (c : Option Credit) : (s.setCard st c).uptime = s.uptime := rfl
@[simp] theorem State.setCard_pending (s : State) (st : Station) (c : Option Credit) : (s.setCard st c).pending = s.pending := rfl

/-! `setMeters` -/
@[simp] theorem State.setMeters_house (s : State) (st : Station) (m : Meters) : (s.setMeters st m).house = s.house := rfl
@[simp] theorem State.setMeters_cards (s : State) (st : Station) (m : Meters) : (s.setMeters st m).cards = s.cards := rfl
@[simp] theorem State.setMeters_mirrors (s : State) (st : Station) (m : Meters) : (s.setMeters st m).mirrors = s.mirrors := rfl
@[simp] theorem State.setMeters_bankA (s : State) (st : Station) (m : Meters) : (s.setMeters st m).bankA = s.bankA := rfl
@[simp] theorem State.setMeters_bankB (s : State) (st : Station) (m : Meters) : (s.setMeters st m).bankB = s.bankB := rfl
@[simp] theorem State.setMeters_active (s : State) (st : Station) (m : Meters) : (s.setMeters st m).active = s.active := rfl
@[simp] theorem State.setMeters_genCounter (s : State) (st : Station) (m : Meters) : (s.setMeters st m).genCounter = s.genCounter := rfl
@[simp] theorem State.setMeters_runs (s : State) (st : Station) (m : Meters) : (s.setMeters st m).runs = s.runs := rfl
@[simp] theorem State.setMeters_paths (s : State) (st : Station) (m : Meters) : (s.setMeters st m).paths = s.paths := rfl
@[simp] theorem State.setMeters_jamTimers (s : State) (st : Station) (m : Meters) : (s.setMeters st m).jamTimers = s.jamTimers := rfl
@[simp] theorem State.setMeters_lostTimers (s : State) (st : Station) (m : Meters) : (s.setMeters st m).lostTimers = s.lostTimers := rfl
@[simp] theorem State.setMeters_sessions (s : State) (st : Station) (m : Meters) : (s.setMeters st m).sessions = s.sessions := rfl
@[simp] theorem State.setMeters_captureQueue (s : State) (st : Station) (m : Meters) : (s.setMeters st m).captureQueue = s.captureQueue := rfl
@[simp] theorem State.setMeters_closingWait (s : State) (st : Station) (m : Meters) : (s.setMeters st m).closingWait = s.closingWait := rfl
@[simp] theorem State.setMeters_stallTimer (s : State) (st : Station) (m : Meters) : (s.setMeters st m).stallTimer = s.stallTimer := rfl
@[simp] theorem State.setMeters_headAge (s : State) (st : Station) (m : Meters) : (s.setMeters st m).headAge = s.headAge := rfl
@[simp] theorem State.setMeters_referrals (s : State) (st : Station) (m : Meters) : (s.setMeters st m).referrals = s.referrals := rfl
@[simp] theorem State.setMeters_referralNextId (s : State) (st : Station) (m : Meters) : (s.setMeters st m).referralNextId = s.referralNextId := rfl
@[simp] theorem State.setMeters_log (s : State) (st : Station) (m : Meters) : (s.setMeters st m).log = s.log := rfl
@[simp] theorem State.setMeters_logNext (s : State) (st : Station) (m : Meters) : (s.setMeters st m).logNext = s.logNext := rfl
@[simp] theorem State.setMeters_reserved (s : State) (st : Station) (m : Meters) : (s.setMeters st m).reserved = s.reserved := rfl
@[simp] theorem State.setMeters_meters (s : State) (st : Station) (m : Meters) : (s.setMeters st m).meters = (s.meters.set st m) := rfl
@[simp] theorem State.setMeters_stations (s : State) (st : Station) (m : Meters) : (s.setMeters st m).stations = s.stations := rfl
@[simp] theorem State.setMeters_io (s : State) (st : Station) (m : Meters) : (s.setMeters st m).io = s.io := rfl
@[simp] theorem State.setMeters_latched (s : State) (st : Station) (m : Meters) : (s.setMeters st m).latched = s.latched := rfl
@[simp] theorem State.setMeters_params (s : State) (st : Station) (m : Meters) : (s.setMeters st m).params = s.params := rfl
@[simp] theorem State.setMeters_resetCause (s : State) (st : Station) (m : Meters) : (s.setMeters st m).resetCause = s.resetCause := rfl
@[simp] theorem State.setMeters_uptime (s : State) (st : Station) (m : Meters) : (s.setMeters st m).uptime = s.uptime := rfl
@[simp] theorem State.setMeters_pending (s : State) (st : Station) (m : Meters) : (s.setMeters st m).pending = s.pending := rfl

/-! `drainTest` -/
@[simp] theorem State.drainTest_house (s : State) (st : Station) : (s.drainTest st).house = s.house := rfl
@[simp] theorem State.drainTest_cards (s : State) (st : Station) : (s.drainTest st).cards = s.cards := rfl
@[simp] theorem State.drainTest_mirrors (s : State) (st : Station) : (s.drainTest st).mirrors = s.mirrors := rfl
@[simp] theorem State.drainTest_bankA (s : State) (st : Station) : (s.drainTest st).bankA = s.bankA := rfl
@[simp] theorem State.drainTest_bankB (s : State) (st : Station) : (s.drainTest st).bankB = s.bankB := rfl
@[simp] theorem State.drainTest_active (s : State) (st : Station) : (s.drainTest st).active = s.active := rfl
@[simp] theorem State.drainTest_genCounter (s : State) (st : Station) : (s.drainTest st).genCounter = s.genCounter := rfl
@[simp] theorem State.drainTest_runs (s : State) (st : Station) : (s.drainTest st).runs = s.runs := rfl
@[simp] theorem State.drainTest_paths (s : State) (st : Station) : (s.drainTest st).paths = s.paths := rfl
@[simp] theorem State.drainTest_jamTimers (s : State) (st : Station) : (s.drainTest st).jamTimers = s.jamTimers := rfl
@[simp] theorem State.drainTest_lostTimers (s : State) (st : Station) : (s.drainTest st).lostTimers = s.lostTimers := rfl
@[simp] theorem State.drainTest_sessions (s : State) (st : Station) : (s.drainTest st).sessions = s.sessions := rfl
@[simp] theorem State.drainTest_captureQueue (s : State) (st : Station) : (s.drainTest st).captureQueue = s.captureQueue := rfl
@[simp] theorem State.drainTest_closingWait (s : State) (st : Station) : (s.drainTest st).closingWait = s.closingWait := rfl
@[simp] theorem State.drainTest_stallTimer (s : State) (st : Station) : (s.drainTest st).stallTimer = s.stallTimer := rfl
@[simp] theorem State.drainTest_headAge (s : State) (st : Station) : (s.drainTest st).headAge = s.headAge := rfl
@[simp] theorem State.drainTest_referrals (s : State) (st : Station) : (s.drainTest st).referrals = s.referrals := rfl
@[simp] theorem State.drainTest_referralNextId (s : State) (st : Station) : (s.drainTest st).referralNextId = s.referralNextId := rfl
@[simp] theorem State.drainTest_log (s : State) (st : Station) : (s.drainTest st).log = s.log := rfl
@[simp] theorem State.drainTest_logNext (s : State) (st : Station) : (s.drainTest st).logNext = s.logNext := rfl
@[simp] theorem State.drainTest_reserved (s : State) (st : Station) : (s.drainTest st).reserved = s.reserved := rfl
@[simp] theorem State.drainTest_meters (s : State) (st : Station) : (s.drainTest st).meters = s.meters := rfl
@[simp] theorem State.drainTest_stations (s : State) (st : Station) : (s.drainTest st).stations = (if s.stations[st].state = .draining ∧ s.runIdle st = true ∧ s.sessionOpen st = false then s.stations.set st { s.stations[st] with state := .off, silence := none } else s.stations) := rfl
@[simp] theorem State.drainTest_io (s : State) (st : Station) : (s.drainTest st).io = s.io := rfl
@[simp] theorem State.drainTest_latched (s : State) (st : Station) : (s.drainTest st).latched = s.latched := rfl
@[simp] theorem State.drainTest_params (s : State) (st : Station) : (s.drainTest st).params = s.params := rfl
@[simp] theorem State.drainTest_resetCause (s : State) (st : Station) : (s.drainTest st).resetCause = s.resetCause := rfl
@[simp] theorem State.drainTest_uptime (s : State) (st : Station) : (s.drainTest st).uptime = s.uptime := rfl
@[simp] theorem State.drainTest_pending (s : State) (st : Station) : (s.drainTest st).pending = s.pending := rfl

/-! `restartIdle` -/
@[simp] theorem State.restartIdle_house (s : State) (st : Station) : (s.restartIdle st).house = s.house := rfl
@[simp] theorem State.restartIdle_cards (s : State) (st : Station) : (s.restartIdle st).cards = s.cards := rfl
@[simp] theorem State.restartIdle_mirrors (s : State) (st : Station) : (s.restartIdle st).mirrors = s.mirrors := rfl
@[simp] theorem State.restartIdle_bankA (s : State) (st : Station) : (s.restartIdle st).bankA = s.bankA := rfl
@[simp] theorem State.restartIdle_bankB (s : State) (st : Station) : (s.restartIdle st).bankB = s.bankB := rfl
@[simp] theorem State.restartIdle_active (s : State) (st : Station) : (s.restartIdle st).active = s.active := rfl
@[simp] theorem State.restartIdle_genCounter (s : State) (st : Station) : (s.restartIdle st).genCounter = s.genCounter := rfl
@[simp] theorem State.restartIdle_runs (s : State) (st : Station) : (s.restartIdle st).runs = (s.runs.set st { s.runs[st] with job := s.runs[st].job.map (fun j => { j with idleTimer := some s.params.runIdle }) }) := rfl
@[simp] theorem State.restartIdle_paths (s : State) (st : Station) : (s.restartIdle st).paths = s.paths := rfl
@[simp] theorem State.restartIdle_jamTimers (s : State) (st : Station) : (s.restartIdle st).jamTimers = s.jamTimers := rfl
@[simp] theorem State.restartIdle_lostTimers (s : State) (st : Station) : (s.restartIdle st).lostTimers = s.lostTimers := rfl
@[simp] theorem State.restartIdle_sessions (s : State) (st : Station) : (s.restartIdle st).sessions = s.sessions := rfl
@[simp] theorem State.restartIdle_captureQueue (s : State) (st : Station) : (s.restartIdle st).captureQueue = s.captureQueue := rfl
@[simp] theorem State.restartIdle_closingWait (s : State) (st : Station) : (s.restartIdle st).closingWait = s.closingWait := rfl
@[simp] theorem State.restartIdle_stallTimer (s : State) (st : Station) : (s.restartIdle st).stallTimer = s.stallTimer := rfl
@[simp] theorem State.restartIdle_headAge (s : State) (st : Station) : (s.restartIdle st).headAge = s.headAge := rfl
@[simp] theorem State.restartIdle_referrals (s : State) (st : Station) : (s.restartIdle st).referrals = s.referrals := rfl
@[simp] theorem State.restartIdle_referralNextId (s : State) (st : Station) : (s.restartIdle st).referralNextId = s.referralNextId := rfl
@[simp] theorem State.restartIdle_log (s : State) (st : Station) : (s.restartIdle st).log = s.log := rfl
@[simp] theorem State.restartIdle_logNext (s : State) (st : Station) : (s.restartIdle st).logNext = s.logNext := rfl
@[simp] theorem State.restartIdle_reserved (s : State) (st : Station) : (s.restartIdle st).reserved = s.reserved := rfl
@[simp] theorem State.restartIdle_meters (s : State) (st : Station) : (s.restartIdle st).meters = s.meters := rfl
@[simp] theorem State.restartIdle_stations (s : State) (st : Station) : (s.restartIdle st).stations = s.stations := rfl
@[simp] theorem State.restartIdle_io (s : State) (st : Station) : (s.restartIdle st).io = s.io := rfl
@[simp] theorem State.restartIdle_latched (s : State) (st : Station) : (s.restartIdle st).latched = s.latched := rfl
@[simp] theorem State.restartIdle_params (s : State) (st : Station) : (s.restartIdle st).params = s.params := rfl
@[simp] theorem State.restartIdle_resetCause (s : State) (st : Station) : (s.restartIdle st).resetCause = s.resetCause := rfl
@[simp] theorem State.restartIdle_uptime (s : State) (st : Station) : (s.restartIdle st).uptime = s.uptime := rfl
@[simp] theorem State.restartIdle_pending (s : State) (st : Station) : (s.restartIdle st).pending = s.pending := rfl

/-! `createReferral` -/
@[simp] theorem State.createReferral_house (s : State) (k : ReferralKind) (st : Station) (n : Word) (x : Nat) : (s.createReferral k st n x).house = s.house := rfl
@[simp] theorem State.createReferral_cards (s : State) (k : ReferralKind) (st : Station) (n : Word) (x : Nat) : (s.createReferral k st n x).cards = s.cards := rfl
@[simp] theorem State.createReferral_mirrors (s : State) (k : ReferralKind) (st : Station) (n : Word) (x : Nat) : (s.createReferral k st n x).mirrors = s.mirrors := rfl
@[simp] theorem State.createReferral_bankA (s : State) (k : ReferralKind) (st : Station) (n : Word) (x : Nat) : (s.createReferral k st n x).bankA = s.bankA := rfl
@[simp] theorem State.createReferral_bankB (s : State) (k : ReferralKind) (st : Station) (n : Word) (x : Nat) : (s.createReferral k st n x).bankB = s.bankB := rfl
@[simp] theorem State.createReferral_active (s : State) (k : ReferralKind) (st : Station) (n : Word) (x : Nat) : (s.createReferral k st n x).active = s.active := rfl
@[simp] theorem State.createReferral_genCounter (s : State) (k : ReferralKind) (st : Station) (n : Word) (x : Nat) : (s.createReferral k st n x).genCounter = s.genCounter := rfl
@[simp] theorem State.createReferral_runs (s : State) (k : ReferralKind) (st : Station) (n : Word) (x : Nat) : (s.createReferral k st n x).runs = s.runs := rfl
@[simp] theorem State.createReferral_paths (s : State) (k : ReferralKind) (st : Station) (n : Word) (x : Nat) : (s.createReferral k st n x).paths = s.paths := rfl
@[simp] theorem State.createReferral_jamTimers (s : State) (k : ReferralKind) (st : Station) (n : Word) (x : Nat) : (s.createReferral k st n x).jamTimers = s.jamTimers := rfl
@[simp] theorem State.createReferral_lostTimers (s : State) (k : ReferralKind) (st : Station) (n : Word) (x : Nat) : (s.createReferral k st n x).lostTimers = s.lostTimers := rfl
@[simp] theorem State.createReferral_sessions (s : State) (k : ReferralKind) (st : Station) (n : Word) (x : Nat) : (s.createReferral k st n x).sessions = s.sessions := rfl
@[simp] theorem State.createReferral_captureQueue (s : State) (k : ReferralKind) (st : Station) (n : Word) (x : Nat) : (s.createReferral k st n x).captureQueue = s.captureQueue := rfl
@[simp] theorem State.createReferral_closingWait (s : State) (k : ReferralKind) (st : Station) (n : Word) (x : Nat) : (s.createReferral k st n x).closingWait = s.closingWait := rfl
@[simp] theorem State.createReferral_stallTimer (s : State) (k : ReferralKind) (st : Station) (n : Word) (x : Nat) : (s.createReferral k st n x).stallTimer = s.stallTimer := rfl
@[simp] theorem State.createReferral_headAge (s : State) (k : ReferralKind) (st : Station) (n : Word) (x : Nat) : (s.createReferral k st n x).headAge = s.headAge := rfl
@[simp] theorem State.createReferral_referrals (s : State) (k : ReferralKind) (st : Station) (n : Word) (x : Nat) : (s.createReferral k st n x).referrals = (s.referrals ++ [⟨s.nextReferralId, k, st, n, x, .waiting, s.params.referralTimeout⟩]) := rfl
@[simp] theorem State.createReferral_referralNextId (s : State) (k : ReferralKind) (st : Station) (n : Word) (x : Nat) : (s.createReferral k st n x).referralNextId = (idAfter s.nextReferralId) := rfl
@[simp] theorem State.createReferral_log (s : State) (k : ReferralKind) (st : Station) (n : Word) (x : Nat) : (s.createReferral k st n x).log = s.log := rfl
@[simp] theorem State.createReferral_logNext (s : State) (k : ReferralKind) (st : Station) (n : Word) (x : Nat) : (s.createReferral k st n x).logNext = s.logNext := rfl
@[simp] theorem State.createReferral_reserved (s : State) (k : ReferralKind) (st : Station) (n : Word) (x : Nat) : (s.createReferral k st n x).reserved = s.reserved := rfl
@[simp] theorem State.createReferral_meters (s : State) (k : ReferralKind) (st : Station) (n : Word) (x : Nat) : (s.createReferral k st n x).meters = s.meters := rfl
@[simp] theorem State.createReferral_stations (s : State) (k : ReferralKind) (st : Station) (n : Word) (x : Nat) : (s.createReferral k st n x).stations = s.stations := rfl
@[simp] theorem State.createReferral_io (s : State) (k : ReferralKind) (st : Station) (n : Word) (x : Nat) : (s.createReferral k st n x).io = s.io := rfl
@[simp] theorem State.createReferral_latched (s : State) (k : ReferralKind) (st : Station) (n : Word) (x : Nat) : (s.createReferral k st n x).latched = (s.latched ||| Event.referralWaiting.mask) := rfl
@[simp] theorem State.createReferral_params (s : State) (k : ReferralKind) (st : Station) (n : Word) (x : Nat) : (s.createReferral k st n x).params = s.params := rfl
@[simp] theorem State.createReferral_resetCause (s : State) (k : ReferralKind) (st : Station) (n : Word) (x : Nat) : (s.createReferral k st n x).resetCause = s.resetCause := rfl
@[simp] theorem State.createReferral_uptime (s : State) (k : ReferralKind) (st : Station) (n : Word) (x : Nat) : (s.createReferral k st n x).uptime = s.uptime := rfl
@[simp] theorem State.createReferral_pending (s : State) (k : ReferralKind) (st : Station) (n : Word) (x : Nat) : (s.createReferral k st n x).pending = s.pending := rfl

/-! `dropReferrals` -/
@[simp] theorem State.dropReferrals_house (s : State) (st : Station) : (s.dropReferrals st).house = s.house := rfl
@[simp] theorem State.dropReferrals_cards (s : State) (st : Station) : (s.dropReferrals st).cards = s.cards := rfl
@[simp] theorem State.dropReferrals_mirrors (s : State) (st : Station) : (s.dropReferrals st).mirrors = s.mirrors := rfl
@[simp] theorem State.dropReferrals_bankA (s : State) (st : Station) : (s.dropReferrals st).bankA = s.bankA := rfl
@[simp] theorem State.dropReferrals_bankB (s : State) (st : Station) : (s.dropReferrals st).bankB = s.bankB := rfl
@[simp] theorem State.dropReferrals_active (s : State) (st : Station) : (s.dropReferrals st).active = s.active := rfl
@[simp] theorem State.dropReferrals_genCounter (s : State) (st : Station) : (s.dropReferrals st).genCounter = s.genCounter := rfl
@[simp] theorem State.dropReferrals_runs (s : State) (st : Station) : (s.dropReferrals st).runs = s.runs := rfl
@[simp] theorem State.dropReferrals_paths (s : State) (st : Station) : (s.dropReferrals st).paths = s.paths := rfl
@[simp] theorem State.dropReferrals_jamTimers (s : State) (st : Station) : (s.dropReferrals st).jamTimers = s.jamTimers := rfl
@[simp] theorem State.dropReferrals_lostTimers (s : State) (st : Station) : (s.dropReferrals st).lostTimers = s.lostTimers := rfl
@[simp] theorem State.dropReferrals_sessions (s : State) (st : Station) : (s.dropReferrals st).sessions = s.sessions := rfl
@[simp] theorem State.dropReferrals_captureQueue (s : State) (st : Station) : (s.dropReferrals st).captureQueue = s.captureQueue := rfl
@[simp] theorem State.dropReferrals_closingWait (s : State) (st : Station) : (s.dropReferrals st).closingWait = s.closingWait := rfl
@[simp] theorem State.dropReferrals_stallTimer (s : State) (st : Station) : (s.dropReferrals st).stallTimer = s.stallTimer := rfl
@[simp] theorem State.dropReferrals_headAge (s : State) (st : Station) : (s.dropReferrals st).headAge = s.headAge := rfl
@[simp] theorem State.dropReferrals_referrals (s : State) (st : Station) : (s.dropReferrals st).referrals = (s.referrals.filter (fun r => r.station != st)) := rfl
@[simp] theorem State.dropReferrals_referralNextId (s : State) (st : Station) : (s.dropReferrals st).referralNextId = s.referralNextId := rfl
@[simp] theorem State.dropReferrals_log (s : State) (st : Station) : (s.dropReferrals st).log = s.log := rfl
@[simp] theorem State.dropReferrals_logNext (s : State) (st : Station) : (s.dropReferrals st).logNext = s.logNext := rfl
@[simp] theorem State.dropReferrals_reserved (s : State) (st : Station) : (s.dropReferrals st).reserved = s.reserved := rfl
@[simp] theorem State.dropReferrals_meters (s : State) (st : Station) : (s.dropReferrals st).meters = s.meters := rfl
@[simp] theorem State.dropReferrals_stations (s : State) (st : Station) : (s.dropReferrals st).stations = s.stations := rfl
@[simp] theorem State.dropReferrals_io (s : State) (st : Station) : (s.dropReferrals st).io = s.io := rfl
@[simp] theorem State.dropReferrals_latched (s : State) (st : Station) : (s.dropReferrals st).latched = s.latched := rfl
@[simp] theorem State.dropReferrals_params (s : State) (st : Station) : (s.dropReferrals st).params = s.params := rfl
@[simp] theorem State.dropReferrals_resetCause (s : State) (st : Station) : (s.dropReferrals st).resetCause = s.resetCause := rfl
@[simp] theorem State.dropReferrals_uptime (s : State) (st : Station) : (s.dropReferrals st).uptime = s.uptime := rfl
@[simp] theorem State.dropReferrals_pending (s : State) (st : Station) : (s.dropReferrals st).pending = s.pending := rfl

/-! `removeReferral` -/
@[simp] theorem State.removeReferral_house (s : State) (id : Nat) : (s.removeReferral id).house = s.house := rfl
@[simp] theorem State.removeReferral_cards (s : State) (id : Nat) : (s.removeReferral id).cards = s.cards := rfl
@[simp] theorem State.removeReferral_mirrors (s : State) (id : Nat) : (s.removeReferral id).mirrors = s.mirrors := rfl
@[simp] theorem State.removeReferral_bankA (s : State) (id : Nat) : (s.removeReferral id).bankA = s.bankA := rfl
@[simp] theorem State.removeReferral_bankB (s : State) (id : Nat) : (s.removeReferral id).bankB = s.bankB := rfl
@[simp] theorem State.removeReferral_active (s : State) (id : Nat) : (s.removeReferral id).active = s.active := rfl
@[simp] theorem State.removeReferral_genCounter (s : State) (id : Nat) : (s.removeReferral id).genCounter = s.genCounter := rfl
@[simp] theorem State.removeReferral_runs (s : State) (id : Nat) : (s.removeReferral id).runs = s.runs := rfl
@[simp] theorem State.removeReferral_paths (s : State) (id : Nat) : (s.removeReferral id).paths = s.paths := rfl
@[simp] theorem State.removeReferral_jamTimers (s : State) (id : Nat) : (s.removeReferral id).jamTimers = s.jamTimers := rfl
@[simp] theorem State.removeReferral_lostTimers (s : State) (id : Nat) : (s.removeReferral id).lostTimers = s.lostTimers := rfl
@[simp] theorem State.removeReferral_sessions (s : State) (id : Nat) : (s.removeReferral id).sessions = s.sessions := rfl
@[simp] theorem State.removeReferral_captureQueue (s : State) (id : Nat) : (s.removeReferral id).captureQueue = s.captureQueue := rfl
@[simp] theorem State.removeReferral_closingWait (s : State) (id : Nat) : (s.removeReferral id).closingWait = s.closingWait := rfl
@[simp] theorem State.removeReferral_stallTimer (s : State) (id : Nat) : (s.removeReferral id).stallTimer = s.stallTimer := rfl
@[simp] theorem State.removeReferral_headAge (s : State) (id : Nat) : (s.removeReferral id).headAge = s.headAge := rfl
@[simp] theorem State.removeReferral_referrals (s : State) (id : Nat) : (s.removeReferral id).referrals = (s.referrals.filter (fun r => r.id != id)) := rfl
@[simp] theorem State.removeReferral_referralNextId (s : State) (id : Nat) : (s.removeReferral id).referralNextId = s.referralNextId := rfl
@[simp] theorem State.removeReferral_log (s : State) (id : Nat) : (s.removeReferral id).log = s.log := rfl
@[simp] theorem State.removeReferral_logNext (s : State) (id : Nat) : (s.removeReferral id).logNext = s.logNext := rfl
@[simp] theorem State.removeReferral_reserved (s : State) (id : Nat) : (s.removeReferral id).reserved = s.reserved := rfl
@[simp] theorem State.removeReferral_meters (s : State) (id : Nat) : (s.removeReferral id).meters = s.meters := rfl
@[simp] theorem State.removeReferral_stations (s : State) (id : Nat) : (s.removeReferral id).stations = s.stations := rfl
@[simp] theorem State.removeReferral_io (s : State) (id : Nat) : (s.removeReferral id).io = s.io := rfl
@[simp] theorem State.removeReferral_latched (s : State) (id : Nat) : (s.removeReferral id).latched = s.latched := rfl
@[simp] theorem State.removeReferral_params (s : State) (id : Nat) : (s.removeReferral id).params = s.params := rfl
@[simp] theorem State.removeReferral_resetCause (s : State) (id : Nat) : (s.removeReferral id).resetCause = s.resetCause := rfl
@[simp] theorem State.removeReferral_uptime (s : State) (id : Nat) : (s.removeReferral id).uptime = s.uptime := rfl
@[simp] theorem State.removeReferral_pending (s : State) (id : Nat) : (s.removeReferral id).pending = s.pending := rfl

/-! `markFetched` -/
@[simp] theorem State.markFetched_house (s : State) (id : Nat) : (s.markFetched id).house = s.house := rfl
@[simp] theorem State.markFetched_cards (s : State) (id : Nat) : (s.markFetched id).cards = s.cards := rfl
@[simp] theorem State.markFetched_mirrors (s : State) (id : Nat) : (s.markFetched id).mirrors = s.mirrors := rfl
@[simp] theorem State.markFetched_bankA (s : State) (id : Nat) : (s.markFetched id).bankA = s.bankA := rfl
@[simp] theorem State.markFetched_bankB (s : State) (id : Nat) : (s.markFetched id).bankB = s.bankB := rfl
@[simp] theorem State.markFetched_active (s : State) (id : Nat) : (s.markFetched id).active = s.active := rfl
@[simp] theorem State.markFetched_genCounter (s : State) (id : Nat) : (s.markFetched id).genCounter = s.genCounter := rfl
@[simp] theorem State.markFetched_runs (s : State) (id : Nat) : (s.markFetched id).runs = s.runs := rfl
@[simp] theorem State.markFetched_paths (s : State) (id : Nat) : (s.markFetched id).paths = s.paths := rfl
@[simp] theorem State.markFetched_jamTimers (s : State) (id : Nat) : (s.markFetched id).jamTimers = s.jamTimers := rfl
@[simp] theorem State.markFetched_lostTimers (s : State) (id : Nat) : (s.markFetched id).lostTimers = s.lostTimers := rfl
@[simp] theorem State.markFetched_sessions (s : State) (id : Nat) : (s.markFetched id).sessions = s.sessions := rfl
@[simp] theorem State.markFetched_captureQueue (s : State) (id : Nat) : (s.markFetched id).captureQueue = s.captureQueue := rfl
@[simp] theorem State.markFetched_closingWait (s : State) (id : Nat) : (s.markFetched id).closingWait = s.closingWait := rfl
@[simp] theorem State.markFetched_stallTimer (s : State) (id : Nat) : (s.markFetched id).stallTimer = s.stallTimer := rfl
@[simp] theorem State.markFetched_headAge (s : State) (id : Nat) : (s.markFetched id).headAge = s.headAge := rfl
@[simp] theorem State.markFetched_referrals (s : State) (id : Nat) : (s.markFetched id).referrals = (s.referrals.map (fun r => if r.id = id then { r with state := .fetched } else r)) := rfl
@[simp] theorem State.markFetched_referralNextId (s : State) (id : Nat) : (s.markFetched id).referralNextId = s.referralNextId := rfl
@[simp] theorem State.markFetched_log (s : State) (id : Nat) : (s.markFetched id).log = s.log := rfl
@[simp] theorem State.markFetched_logNext (s : State) (id : Nat) : (s.markFetched id).logNext = s.logNext := rfl
@[simp] theorem State.markFetched_reserved (s : State) (id : Nat) : (s.markFetched id).reserved = s.reserved := rfl
@[simp] theorem State.markFetched_meters (s : State) (id : Nat) : (s.markFetched id).meters = s.meters := rfl
@[simp] theorem State.markFetched_stations (s : State) (id : Nat) : (s.markFetched id).stations = s.stations := rfl
@[simp] theorem State.markFetched_io (s : State) (id : Nat) : (s.markFetched id).io = s.io := rfl
@[simp] theorem State.markFetched_latched (s : State) (id : Nat) : (s.markFetched id).latched = s.latched := rfl
@[simp] theorem State.markFetched_params (s : State) (id : Nat) : (s.markFetched id).params = s.params := rfl
@[simp] theorem State.markFetched_resetCause (s : State) (id : Nat) : (s.markFetched id).resetCause = s.resetCause := rfl
@[simp] theorem State.markFetched_uptime (s : State) (id : Nat) : (s.markFetched id).uptime = s.uptime := rfl
@[simp] theorem State.markFetched_pending (s : State) (id : Nat) : (s.markFetched id).pending = s.pending := rfl

/-! `spend` -/
@[simp] theorem State.spend_house (s : State) (st : Station) (k : SlotKind) (x : Nat) : (s.spend st k x).house = s.house := rfl
@[simp] theorem State.spend_cards (s : State) (st : Station) (k : SlotKind) (x : Nat) : (s.spend st k x).cards = s.cards := rfl
@[simp] theorem State.spend_mirrors (s : State) (st : Station) (k : SlotKind) (x : Nat) : (s.spend st k x).mirrors = s.mirrors := rfl
@[simp] theorem State.spend_bankA (s : State) (st : Station) (k : SlotKind) (x : Nat) : (s.spend st k x).bankA = s.bankA := rfl
@[simp] theorem State.spend_bankB (s : State) (st : Station) (k : SlotKind) (x : Nat) : (s.spend st k x).bankB = s.bankB := rfl
@[simp] theorem State.spend_active (s : State) (st : Station) (k : SlotKind) (x : Nat) : (s.spend st k x).active = s.active := rfl
@[simp] theorem State.spend_genCounter (s : State) (st : Station) (k : SlotKind) (x : Nat) : (s.spend st k x).genCounter = s.genCounter := rfl
@[simp] theorem State.spend_runs (s : State) (st : Station) (k : SlotKind) (x : Nat) : (s.spend st k x).runs = s.runs := rfl
@[simp] theorem State.spend_paths (s : State) (st : Station) (k : SlotKind) (x : Nat) : (s.spend st k x).paths = s.paths := rfl
@[simp] theorem State.spend_jamTimers (s : State) (st : Station) (k : SlotKind) (x : Nat) : (s.spend st k x).jamTimers = s.jamTimers := rfl
@[simp] theorem State.spend_lostTimers (s : State) (st : Station) (k : SlotKind) (x : Nat) : (s.spend st k x).lostTimers = s.lostTimers := rfl
@[simp] theorem State.spend_sessions (s : State) (st : Station) (k : SlotKind) (x : Nat) : (s.spend st k x).sessions = (if k = .card then s.sessions.set st (s.sessions[st].map (fun y => { y with spent := y.spent + x })) else s.sessions) := rfl
@[simp] theorem State.spend_captureQueue (s : State) (st : Station) (k : SlotKind) (x : Nat) : (s.spend st k x).captureQueue = s.captureQueue := rfl
@[simp] theorem State.spend_closingWait (s : State) (st : Station) (k : SlotKind) (x : Nat) : (s.spend st k x).closingWait = s.closingWait := rfl
@[simp] theorem State.spend_stallTimer (s : State) (st : Station) (k : SlotKind) (x : Nat) : (s.spend st k x).stallTimer = s.stallTimer := rfl
@[simp] theorem State.spend_headAge (s : State) (st : Station) (k : SlotKind) (x : Nat) : (s.spend st k x).headAge = s.headAge := rfl
@[simp] theorem State.spend_referrals (s : State) (st : Station) (k : SlotKind) (x : Nat) : (s.spend st k x).referrals = s.referrals := rfl
@[simp] theorem State.spend_referralNextId (s : State) (st : Station) (k : SlotKind) (x : Nat) : (s.spend st k x).referralNextId = s.referralNextId := rfl
@[simp] theorem State.spend_log (s : State) (st : Station) (k : SlotKind) (x : Nat) : (s.spend st k x).log = s.log := rfl
@[simp] theorem State.spend_logNext (s : State) (st : Station) (k : SlotKind) (x : Nat) : (s.spend st k x).logNext = s.logNext := rfl
@[simp] theorem State.spend_reserved (s : State) (st : Station) (k : SlotKind) (x : Nat) : (s.spend st k x).reserved = s.reserved := rfl
@[simp] theorem State.spend_meters (s : State) (st : Station) (k : SlotKind) (x : Nat) : (s.spend st k x).meters = s.meters := rfl
@[simp] theorem State.spend_stations (s : State) (st : Station) (k : SlotKind) (x : Nat) : (s.spend st k x).stations = s.stations := rfl
@[simp] theorem State.spend_io (s : State) (st : Station) (k : SlotKind) (x : Nat) : (s.spend st k x).io = s.io := rfl
@[simp] theorem State.spend_latched (s : State) (st : Station) (k : SlotKind) (x : Nat) : (s.spend st k x).latched = s.latched := rfl
@[simp] theorem State.spend_params (s : State) (st : Station) (k : SlotKind) (x : Nat) : (s.spend st k x).params = s.params := rfl
@[simp] theorem State.spend_resetCause (s : State) (st : Station) (k : SlotKind) (x : Nat) : (s.spend st k x).resetCause = s.resetCause := rfl
@[simp] theorem State.spend_uptime (s : State) (st : Station) (k : SlotKind) (x : Nat) : (s.spend st k x).uptime = s.uptime := rfl
@[simp] theorem State.spend_pending (s : State) (st : Station) (k : SlotKind) (x : Nat) : (s.spend st k x).pending = s.pending := rfl

/-! `deliver` -/
@[simp] theorem State.deliver_house (s : State) (st : Station) (n : Nat) : (s.deliver st n).house = s.house := rfl
@[simp] theorem State.deliver_cards (s : State) (st : Station) (n : Nat) : (s.deliver st n).cards = s.cards := rfl
@[simp] theorem State.deliver_mirrors (s : State) (st : Station) (n : Nat) : (s.deliver st n).mirrors = s.mirrors := rfl
@[simp] theorem State.deliver_bankA (s : State) (st : Station) (n : Nat) : (s.deliver st n).bankA = s.bankA := rfl
@[simp] theorem State.deliver_bankB (s : State) (st : Station) (n : Nat) : (s.deliver st n).bankB = s.bankB := rfl
@[simp] theorem State.deliver_active (s : State) (st : Station) (n : Nat) : (s.deliver st n).active = s.active := rfl
@[simp] theorem State.deliver_genCounter (s : State) (st : Station) (n : Nat) : (s.deliver st n).genCounter = s.genCounter := rfl
@[simp] theorem State.deliver_runs (s : State) (st : Station) (n : Nat) : (s.deliver st n).runs = (s.runs.set st { s.runs[st] with job := s.runs[st].job.map (fun j => { j with delivered := j.delivered + (s.paths[st].take n).length, sinceInterim := j.sinceInterim + (s.paths[st].take n).length }) }) := rfl
@[simp] theorem State.deliver_paths (s : State) (st : Station) (n : Nat) : (s.deliver st n).paths = (s.paths.set st (s.paths[st].drop n)) := rfl
@[simp] theorem State.deliver_jamTimers (s : State) (st : Station) (n : Nat) : (s.deliver st n).jamTimers = s.jamTimers := rfl
@[simp] theorem State.deliver_lostTimers (s : State) (st : Station) (n : Nat) : (s.deliver st n).lostTimers = s.lostTimers := rfl
@[simp] theorem State.deliver_sessions (s : State) (st : Station) (n : Nat) : (s.deliver st n).sessions = s.sessions := rfl
@[simp] theorem State.deliver_captureQueue (s : State) (st : Station) (n : Nat) : (s.deliver st n).captureQueue = s.captureQueue := rfl
@[simp] theorem State.deliver_closingWait (s : State) (st : Station) (n : Nat) : (s.deliver st n).closingWait = s.closingWait := rfl
@[simp] theorem State.deliver_stallTimer (s : State) (st : Station) (n : Nat) : (s.deliver st n).stallTimer = s.stallTimer := rfl
@[simp] theorem State.deliver_headAge (s : State) (st : Station) (n : Nat) : (s.deliver st n).headAge = s.headAge := rfl
@[simp] theorem State.deliver_referrals (s : State) (st : Station) (n : Nat) : (s.deliver st n).referrals = s.referrals := rfl
@[simp] theorem State.deliver_referralNextId (s : State) (st : Station) (n : Nat) : (s.deliver st n).referralNextId = s.referralNextId := rfl
@[simp] theorem State.deliver_log (s : State) (st : Station) (n : Nat) : (s.deliver st n).log = s.log := rfl
@[simp] theorem State.deliver_logNext (s : State) (st : Station) (n : Nat) : (s.deliver st n).logNext = s.logNext := rfl
@[simp] theorem State.deliver_reserved (s : State) (st : Station) (n : Nat) : (s.deliver st n).reserved = s.reserved := rfl
@[simp] theorem State.deliver_meters (s : State) (st : Station) (n : Nat) : (s.deliver st n).meters = (s.meters.set st ((s.paths[st].take n).foldl Meters.deliver s.meters[st])) := rfl
@[simp] theorem State.deliver_stations (s : State) (st : Station) (n : Nat) : (s.deliver st n).stations = s.stations := rfl
@[simp] theorem State.deliver_io (s : State) (st : Station) (n : Nat) : (s.deliver st n).io = s.io := rfl
@[simp] theorem State.deliver_latched (s : State) (st : Station) (n : Nat) : (s.deliver st n).latched = s.latched := rfl
@[simp] theorem State.deliver_params (s : State) (st : Station) (n : Nat) : (s.deliver st n).params = s.params := rfl
@[simp] theorem State.deliver_resetCause (s : State) (st : Station) (n : Nat) : (s.deliver st n).resetCause = s.resetCause := rfl
@[simp] theorem State.deliver_uptime (s : State) (st : Station) (n : Nat) : (s.deliver st n).uptime = s.uptime := rfl
@[simp] theorem State.deliver_pending (s : State) (st : Station) (n : Nat) : (s.deliver st n).pending = s.pending := rfl

/-! `enterCapturing` -/
@[simp] theorem State.enterCapturing_house (s : State) (st : Station) (x : Session) : (s.enterCapturing st x).house = s.house := rfl
@[simp] theorem State.enterCapturing_cards (s : State) (st : Station) (x : Session) : (s.enterCapturing st x).cards = (s.cards.set st none) := rfl
@[simp] theorem State.enterCapturing_mirrors (s : State) (st : Station) (x : Session) : (s.enterCapturing st x).mirrors = s.mirrors := rfl
@[simp] theorem State.enterCapturing_bankA (s : State) (st : Station) (x : Session) : (s.enterCapturing st x).bankA = s.bankA := rfl
@[simp] theorem State.enterCapturing_bankB (s : State) (st : Station) (x : Session) : (s.enterCapturing st x).bankB = s.bankB := rfl
@[simp] theorem State.enterCapturing_active (s : State) (st : Station) (x : Session) : (s.enterCapturing st x).active = s.active := rfl
@[simp] theorem State.enterCapturing_genCounter (s : State) (st : Station) (x : Session) : (s.enterCapturing st x).genCounter = s.genCounter := rfl
@[simp] theorem State.enterCapturing_runs (s : State) (st : Station) (x : Session) : (s.enterCapturing st x).runs = s.runs := rfl
@[simp] theorem State.enterCapturing_paths (s : State) (st : Station) (x : Session) : (s.enterCapturing st x).paths = s.paths := rfl
@[simp] theorem State.enterCapturing_jamTimers (s : State) (st : Station) (x : Session) : (s.enterCapturing st x).jamTimers = s.jamTimers := rfl
@[simp] theorem State.enterCapturing_lostTimers (s : State) (st : Station) (x : Session) : (s.enterCapturing st x).lostTimers = s.lostTimers := rfl
@[simp] theorem State.enterCapturing_sessions (s : State) (st : Station) (x : Session) : (s.enterCapturing st x).sessions = (s.sessions.set st (some { x with state := .capturing, idleTimer := none })) := rfl
@[simp] theorem State.enterCapturing_captureQueue (s : State) (st : Station) (x : Session) : (s.enterCapturing st x).captureQueue = (s.captureQueue ++ x.auths.map (Auth.order st)) := rfl
@[simp] theorem State.enterCapturing_closingWait (s : State) (st : Station) (x : Session) : (s.enterCapturing st x).closingWait = s.closingWait := rfl
@[simp] theorem State.enterCapturing_stallTimer (s : State) (st : Station) (x : Session) : (s.enterCapturing st x).stallTimer = (if s.captureQueue.isEmpty then some s.params.captureStall else s.stallTimer) := rfl
@[simp] theorem State.enterCapturing_headAge (s : State) (st : Station) (x : Session) : (s.enterCapturing st x).headAge = (if s.captureQueue.isEmpty then 0 else s.headAge) := rfl
@[simp] theorem State.enterCapturing_referrals (s : State) (st : Station) (x : Session) : (s.enterCapturing st x).referrals = s.referrals := rfl
@[simp] theorem State.enterCapturing_referralNextId (s : State) (st : Station) (x : Session) : (s.enterCapturing st x).referralNextId = s.referralNextId := rfl
@[simp] theorem State.enterCapturing_log (s : State) (st : Station) (x : Session) : (s.enterCapturing st x).log = s.log := rfl
@[simp] theorem State.enterCapturing_logNext (s : State) (st : Station) (x : Session) : (s.enterCapturing st x).logNext = s.logNext := rfl
@[simp] theorem State.enterCapturing_reserved (s : State) (st : Station) (x : Session) : (s.enterCapturing st x).reserved = s.reserved := rfl
@[simp] theorem State.enterCapturing_meters (s : State) (st : Station) (x : Session) : (s.enterCapturing st x).meters = s.meters := rfl
@[simp] theorem State.enterCapturing_stations (s : State) (st : Station) (x : Session) : (s.enterCapturing st x).stations = s.stations := rfl
@[simp] theorem State.enterCapturing_io (s : State) (st : Station) (x : Session) : (s.enterCapturing st x).io = s.io := rfl
@[simp] theorem State.enterCapturing_latched (s : State) (st : Station) (x : Session) : (s.enterCapturing st x).latched = s.latched := rfl
@[simp] theorem State.enterCapturing_params (s : State) (st : Station) (x : Session) : (s.enterCapturing st x).params = s.params := rfl
@[simp] theorem State.enterCapturing_resetCause (s : State) (st : Station) (x : Session) : (s.enterCapturing st x).resetCause = s.resetCause := rfl
@[simp] theorem State.enterCapturing_uptime (s : State) (st : Station) (x : Session) : (s.enterCapturing st x).uptime = s.uptime := rfl
@[simp] theorem State.enterCapturing_pending (s : State) (st : Station) (x : Session) : (s.enterCapturing st x).pending = s.pending := rfl

/-! `enterClosing` -/
@[simp] theorem State.enterClosing_house (s : State) (st : Station) (x : Session) : (s.enterClosing st x).house = s.house := rfl
@[simp] theorem State.enterClosing_cards (s : State) (st : Station) (x : Session) : (s.enterClosing st x).cards = s.cards := rfl
@[simp] theorem State.enterClosing_mirrors (s : State) (st : Station) (x : Session) : (s.enterClosing st x).mirrors = s.mirrors := rfl
@[simp] theorem State.enterClosing_bankA (s : State) (st : Station) (x : Session) : (s.enterClosing st x).bankA = s.bankA := rfl
@[simp] theorem State.enterClosing_bankB (s : State) (st : Station) (x : Session) : (s.enterClosing st x).bankB = s.bankB := rfl
@[simp] theorem State.enterClosing_active (s : State) (st : Station) (x : Session) : (s.enterClosing st x).active = s.active := rfl
@[simp] theorem State.enterClosing_genCounter (s : State) (st : Station) (x : Session) : (s.enterClosing st x).genCounter = s.genCounter := rfl
@[simp] theorem State.enterClosing_runs (s : State) (st : Station) (x : Session) : (s.enterClosing st x).runs = s.runs := rfl
@[simp] theorem State.enterClosing_paths (s : State) (st : Station) (x : Session) : (s.enterClosing st x).paths = s.paths := rfl
@[simp] theorem State.enterClosing_jamTimers (s : State) (st : Station) (x : Session) : (s.enterClosing st x).jamTimers = s.jamTimers := rfl
@[simp] theorem State.enterClosing_lostTimers (s : State) (st : Station) (x : Session) : (s.enterClosing st x).lostTimers = s.lostTimers := rfl
@[simp] theorem State.enterClosing_sessions (s : State) (st : Station) (x : Session) : (s.enterClosing st x).sessions = (s.sessions.set st (some { x with state := .closing, idleTimer := none })) := rfl
@[simp] theorem State.enterClosing_captureQueue (s : State) (st : Station) (x : Session) : (s.enterClosing st x).captureQueue = s.captureQueue := rfl
@[simp] theorem State.enterClosing_closingWait (s : State) (st : Station) (x : Session) : (s.enterClosing st x).closingWait = (s.closingWait ++ [st]) := rfl
@[simp] theorem State.enterClosing_stallTimer (s : State) (st : Station) (x : Session) : (s.enterClosing st x).stallTimer = s.stallTimer := rfl
@[simp] theorem State.enterClosing_headAge (s : State) (st : Station) (x : Session) : (s.enterClosing st x).headAge = s.headAge := rfl
@[simp] theorem State.enterClosing_referrals (s : State) (st : Station) (x : Session) : (s.enterClosing st x).referrals = s.referrals := rfl
@[simp] theorem State.enterClosing_referralNextId (s : State) (st : Station) (x : Session) : (s.enterClosing st x).referralNextId = s.referralNextId := rfl
@[simp] theorem State.enterClosing_log (s : State) (st : Station) (x : Session) : (s.enterClosing st x).log = s.log := rfl
@[simp] theorem State.enterClosing_logNext (s : State) (st : Station) (x : Session) : (s.enterClosing st x).logNext = s.logNext := rfl
@[simp] theorem State.enterClosing_reserved (s : State) (st : Station) (x : Session) : (s.enterClosing st x).reserved = s.reserved := rfl
@[simp] theorem State.enterClosing_meters (s : State) (st : Station) (x : Session) : (s.enterClosing st x).meters = s.meters := rfl
@[simp] theorem State.enterClosing_stations (s : State) (st : Station) (x : Session) : (s.enterClosing st x).stations = s.stations := rfl
@[simp] theorem State.enterClosing_io (s : State) (st : Station) (x : Session) : (s.enterClosing st x).io = s.io := rfl
@[simp] theorem State.enterClosing_latched (s : State) (st : Station) (x : Session) : (s.enterClosing st x).latched = s.latched := rfl
@[simp] theorem State.enterClosing_params (s : State) (st : Station) (x : Session) : (s.enterClosing st x).params = s.params := rfl
@[simp] theorem State.enterClosing_resetCause (s : State) (st : Station) (x : Session) : (s.enterClosing st x).resetCause = s.resetCause := rfl
@[simp] theorem State.enterClosing_uptime (s : State) (st : Station) (x : Session) : (s.enterClosing st x).uptime = s.uptime := rfl
@[simp] theorem State.enterClosing_pending (s : State) (st : Station) (x : Session) : (s.enterClosing st x).pending = s.pending := rfl

/-! `storeOutcome` -/
@[simp] theorem State.storeOutcome_house (s : State) (head : Order) (rest : List Order) (o : AuthOutcome) : (s.storeOutcome head rest o).house = s.house := rfl
@[simp] theorem State.storeOutcome_cards (s : State) (head : Order) (rest : List Order) (o : AuthOutcome) : (s.storeOutcome head rest o).cards = s.cards := rfl
@[simp] theorem State.storeOutcome_mirrors (s : State) (head : Order) (rest : List Order) (o : AuthOutcome) : (s.storeOutcome head rest o).mirrors = s.mirrors := rfl
@[simp] theorem State.storeOutcome_bankA (s : State) (head : Order) (rest : List Order) (o : AuthOutcome) : (s.storeOutcome head rest o).bankA = s.bankA := rfl
@[simp] theorem State.storeOutcome_bankB (s : State) (head : Order) (rest : List Order) (o : AuthOutcome) : (s.storeOutcome head rest o).bankB = s.bankB := rfl
@[simp] theorem State.storeOutcome_active (s : State) (head : Order) (rest : List Order) (o : AuthOutcome) : (s.storeOutcome head rest o).active = s.active := rfl
@[simp] theorem State.storeOutcome_genCounter (s : State) (head : Order) (rest : List Order) (o : AuthOutcome) : (s.storeOutcome head rest o).genCounter = s.genCounter := rfl
@[simp] theorem State.storeOutcome_runs (s : State) (head : Order) (rest : List Order) (o : AuthOutcome) : (s.storeOutcome head rest o).runs = s.runs := rfl
@[simp] theorem State.storeOutcome_paths (s : State) (head : Order) (rest : List Order) (o : AuthOutcome) : (s.storeOutcome head rest o).paths = s.paths := rfl
@[simp] theorem State.storeOutcome_jamTimers (s : State) (head : Order) (rest : List Order) (o : AuthOutcome) : (s.storeOutcome head rest o).jamTimers = s.jamTimers := rfl
@[simp] theorem State.storeOutcome_lostTimers (s : State) (head : Order) (rest : List Order) (o : AuthOutcome) : (s.storeOutcome head rest o).lostTimers = s.lostTimers := rfl
@[simp] theorem State.storeOutcome_sessions (s : State) (head : Order) (rest : List Order) (o : AuthOutcome) : (s.storeOutcome head rest o).sessions = (s.sessions.set head.station (s.sessions[head.station].map (·.answer head.reference o))) := rfl
@[simp] theorem State.storeOutcome_captureQueue (s : State) (head : Order) (rest : List Order) (o : AuthOutcome) : (s.storeOutcome head rest o).captureQueue = (rest) := rfl
@[simp] theorem State.storeOutcome_closingWait (s : State) (head : Order) (rest : List Order) (o : AuthOutcome) : (s.storeOutcome head rest o).closingWait = s.closingWait := rfl
@[simp] theorem State.storeOutcome_stallTimer (s : State) (head : Order) (rest : List Order) (o : AuthOutcome) : (s.storeOutcome head rest o).stallTimer = s.stallTimer := rfl
@[simp] theorem State.storeOutcome_headAge (s : State) (head : Order) (rest : List Order) (o : AuthOutcome) : (s.storeOutcome head rest o).headAge = s.headAge := rfl
@[simp] theorem State.storeOutcome_referrals (s : State) (head : Order) (rest : List Order) (o : AuthOutcome) : (s.storeOutcome head rest o).referrals = s.referrals := rfl
@[simp] theorem State.storeOutcome_referralNextId (s : State) (head : Order) (rest : List Order) (o : AuthOutcome) : (s.storeOutcome head rest o).referralNextId = s.referralNextId := rfl
@[simp] theorem State.storeOutcome_log (s : State) (head : Order) (rest : List Order) (o : AuthOutcome) : (s.storeOutcome head rest o).log = s.log := rfl
@[simp] theorem State.storeOutcome_logNext (s : State) (head : Order) (rest : List Order) (o : AuthOutcome) : (s.storeOutcome head rest o).logNext = s.logNext := rfl
@[simp] theorem State.storeOutcome_reserved (s : State) (head : Order) (rest : List Order) (o : AuthOutcome) : (s.storeOutcome head rest o).reserved = s.reserved := rfl
@[simp] theorem State.storeOutcome_meters (s : State) (head : Order) (rest : List Order) (o : AuthOutcome) : (s.storeOutcome head rest o).meters = s.meters := rfl
@[simp] theorem State.storeOutcome_stations (s : State) (head : Order) (rest : List Order) (o : AuthOutcome) : (s.storeOutcome head rest o).stations = s.stations := rfl
@[simp] theorem State.storeOutcome_io (s : State) (head : Order) (rest : List Order) (o : AuthOutcome) : (s.storeOutcome head rest o).io = s.io := rfl
@[simp] theorem State.storeOutcome_latched (s : State) (head : Order) (rest : List Order) (o : AuthOutcome) : (s.storeOutcome head rest o).latched = s.latched := rfl
@[simp] theorem State.storeOutcome_params (s : State) (head : Order) (rest : List Order) (o : AuthOutcome) : (s.storeOutcome head rest o).params = s.params := rfl
@[simp] theorem State.storeOutcome_resetCause (s : State) (head : Order) (rest : List Order) (o : AuthOutcome) : (s.storeOutcome head rest o).resetCause = s.resetCause := rfl
@[simp] theorem State.storeOutcome_uptime (s : State) (head : Order) (rest : List Order) (o : AuthOutcome) : (s.storeOutcome head rest o).uptime = s.uptime := rfl
@[simp] theorem State.storeOutcome_pending (s : State) (head : Order) (rest : List Order) (o : AuthOutcome) : (s.storeOutcome head rest o).pending = s.pending := rfl

/-! `newHead` -/
@[simp] theorem State.newHead_house (s : State) : (s.newHead).house = s.house := rfl
@[simp] theorem State.newHead_cards (s : State) : (s.newHead).cards = s.cards := rfl
@[simp] theorem State.newHead_mirrors (s : State) : (s.newHead).mirrors = s.mirrors := rfl
@[simp] theorem State.newHead_bankA (s : State) : (s.newHead).bankA = s.bankA := rfl
@[simp] theorem State.newHead_bankB (s : State) : (s.newHead).bankB = s.bankB := rfl
@[simp] theorem State.newHead_active (s : State) : (s.newHead).active = s.active := rfl
@[simp] theorem State.newHead_genCounter (s : State) : (s.newHead).genCounter = s.genCounter := rfl
@[simp] theorem State.newHead_runs (s : State) : (s.newHead).runs = s.runs := rfl
@[simp] theorem State.newHead_paths (s : State) : (s.newHead).paths = s.paths := rfl
@[simp] theorem State.newHead_jamTimers (s : State) : (s.newHead).jamTimers = s.jamTimers := rfl
@[simp] theorem State.newHead_lostTimers (s : State) : (s.newHead).lostTimers = s.lostTimers := rfl
@[simp] theorem State.newHead_sessions (s : State) : (s.newHead).sessions = s.sessions := rfl
@[simp] theorem State.newHead_captureQueue (s : State) : (s.newHead).captureQueue = s.captureQueue := rfl
@[simp] theorem State.newHead_closingWait (s : State) : (s.newHead).closingWait = s.closingWait := rfl
@[simp] theorem State.newHead_stallTimer (s : State) : (s.newHead).stallTimer = (if s.captureQueue.isEmpty then none else some s.params.captureStall) := rfl
@[simp] theorem State.newHead_headAge (s : State) : (s.newHead).headAge = (0) := rfl
@[simp] theorem State.newHead_referrals (s : State) : (s.newHead).referrals = s.referrals := rfl
@[simp] theorem State.newHead_referralNextId (s : State) : (s.newHead).referralNextId = s.referralNextId := rfl
@[simp] theorem State.newHead_log (s : State) : (s.newHead).log = s.log := rfl
@[simp] theorem State.newHead_logNext (s : State) : (s.newHead).logNext = s.logNext := rfl
@[simp] theorem State.newHead_reserved (s : State) : (s.newHead).reserved = s.reserved := rfl
@[simp] theorem State.newHead_meters (s : State) : (s.newHead).meters = s.meters := rfl
@[simp] theorem State.newHead_stations (s : State) : (s.newHead).stations = s.stations := rfl
@[simp] theorem State.newHead_io (s : State) : (s.newHead).io = s.io := rfl
@[simp] theorem State.newHead_latched (s : State) : (s.newHead).latched = s.latched := rfl
@[simp] theorem State.newHead_params (s : State) : (s.newHead).params = s.params := rfl
@[simp] theorem State.newHead_resetCause (s : State) : (s.newHead).resetCause = s.resetCause := rfl
@[simp] theorem State.newHead_uptime (s : State) : (s.newHead).uptime = s.uptime := rfl
@[simp] theorem State.newHead_pending (s : State) : (s.newHead).pending = s.pending := rfl

/-! `addMirror` -/
@[simp] theorem State.addMirror_house (s : State) (n : Word) (st : Station) : (s.addMirror n st).house = s.house := rfl
@[simp] theorem State.addMirror_cards (s : State) (n : Word) (st : Station) : (s.addMirror n st).cards = s.cards := rfl
@[simp] theorem State.addMirror_mirrors (s : State) (n : Word) (st : Station) : (s.addMirror n st).mirrors = (s.mirrors ++ [⟨n, .pending, 0, ⟨0, 0, [st]⟩⟩]) := rfl
@[simp] theorem State.addMirror_bankA (s : State) (n : Word) (st : Station) : (s.addMirror n st).bankA = s.bankA := rfl
@[simp] theorem State.addMirror_bankB (s : State) (n : Word) (st : Station) : (s.addMirror n st).bankB = s.bankB := rfl
@[simp] theorem State.addMirror_active (s : State) (n : Word) (st : Station) : (s.addMirror n st).active = s.active := rfl
@[simp] theorem State.addMirror_genCounter (s : State) (n : Word) (st : Station) : (s.addMirror n st).genCounter = s.genCounter := rfl
@[simp] theorem State.addMirror_runs (s : State) (n : Word) (st : Station) : (s.addMirror n st).runs = s.runs := rfl
@[simp] theorem State.addMirror_paths (s : State) (n : Word) (st : Station) : (s.addMirror n st).paths = s.paths := rfl
@[simp] theorem State.addMirror_jamTimers (s : State) (n : Word) (st : Station) : (s.addMirror n st).jamTimers = s.jamTimers := rfl
@[simp] theorem State.addMirror_lostTimers (s : State) (n : Word) (st : Station) : (s.addMirror n st).lostTimers = s.lostTimers := rfl
@[simp] theorem State.addMirror_sessions (s : State) (n : Word) (st : Station) : (s.addMirror n st).sessions = s.sessions := rfl
@[simp] theorem State.addMirror_captureQueue (s : State) (n : Word) (st : Station) : (s.addMirror n st).captureQueue = s.captureQueue := rfl
@[simp] theorem State.addMirror_closingWait (s : State) (n : Word) (st : Station) : (s.addMirror n st).closingWait = s.closingWait := rfl
@[simp] theorem State.addMirror_stallTimer (s : State) (n : Word) (st : Station) : (s.addMirror n st).stallTimer = s.stallTimer := rfl
@[simp] theorem State.addMirror_headAge (s : State) (n : Word) (st : Station) : (s.addMirror n st).headAge = s.headAge := rfl
@[simp] theorem State.addMirror_referrals (s : State) (n : Word) (st : Station) : (s.addMirror n st).referrals = s.referrals := rfl
@[simp] theorem State.addMirror_referralNextId (s : State) (n : Word) (st : Station) : (s.addMirror n st).referralNextId = s.referralNextId := rfl
@[simp] theorem State.addMirror_log (s : State) (n : Word) (st : Station) : (s.addMirror n st).log = s.log := rfl
@[simp] theorem State.addMirror_logNext (s : State) (n : Word) (st : Station) : (s.addMirror n st).logNext = s.logNext := rfl
@[simp] theorem State.addMirror_reserved (s : State) (n : Word) (st : Station) : (s.addMirror n st).reserved = s.reserved := rfl
@[simp] theorem State.addMirror_meters (s : State) (n : Word) (st : Station) : (s.addMirror n st).meters = s.meters := rfl
@[simp] theorem State.addMirror_stations (s : State) (n : Word) (st : Station) : (s.addMirror n st).stations = s.stations := rfl
@[simp] theorem State.addMirror_io (s : State) (n : Word) (st : Station) : (s.addMirror n st).io = s.io := rfl
@[simp] theorem State.addMirror_latched (s : State) (n : Word) (st : Station) : (s.addMirror n st).latched = s.latched := rfl
@[simp] theorem State.addMirror_params (s : State) (n : Word) (st : Station) : (s.addMirror n st).params = s.params := rfl
@[simp] theorem State.addMirror_resetCause (s : State) (n : Word) (st : Station) : (s.addMirror n st).resetCause = s.resetCause := rfl
@[simp] theorem State.addMirror_uptime (s : State) (n : Word) (st : Station) : (s.addMirror n st).uptime = s.uptime := rfl
@[simp] theorem State.addMirror_pending (s : State) (n : Word) (st : Station) : (s.addMirror n st).pending = s.pending := rfl

/-! `activateMirror` -/
@[simp] theorem State.activateMirror_house (s : State) (n : Word) (x : Nat) (t : Tier) : (s.activateMirror n x t).house = s.house := rfl
@[simp] theorem State.activateMirror_cards (s : State) (n : Word) (x : Nat) (t : Tier) : (s.activateMirror n x t).cards = s.cards := rfl
@[simp] theorem State.activateMirror_mirrors (s : State) (n : Word) (x : Nat) (t : Tier) : (s.activateMirror n x t).mirrors = (s.mirrors.map (fun m => if m.number = n then { m with state := .active, tier := t, credit := { m.credit with balance := x } } else m)) := rfl
@[simp] theorem State.activateMirror_bankA (s : State) (n : Word) (x : Nat) (t : Tier) : (s.activateMirror n x t).bankA = s.bankA := rfl
@[simp] theorem State.activateMirror_bankB (s : State) (n : Word) (x : Nat) (t : Tier) : (s.activateMirror n x t).bankB = s.bankB := rfl
@[simp] theorem State.activateMirror_active (s : State) (n : Word) (x : Nat) (t : Tier) : (s.activateMirror n x t).active = s.active := rfl
@[simp] theorem State.activateMirror_genCounter (s : State) (n : Word) (x : Nat) (t : Tier) : (s.activateMirror n x t).genCounter = s.genCounter := rfl
@[simp] theorem State.activateMirror_runs (s : State) (n : Word) (x : Nat) (t : Tier) : (s.activateMirror n x t).runs = s.runs := rfl
@[simp] theorem State.activateMirror_paths (s : State) (n : Word) (x : Nat) (t : Tier) : (s.activateMirror n x t).paths = s.paths := rfl
@[simp] theorem State.activateMirror_jamTimers (s : State) (n : Word) (x : Nat) (t : Tier) : (s.activateMirror n x t).jamTimers = s.jamTimers := rfl
@[simp] theorem State.activateMirror_lostTimers (s : State) (n : Word) (x : Nat) (t : Tier) : (s.activateMirror n x t).lostTimers = s.lostTimers := rfl
@[simp] theorem State.activateMirror_sessions (s : State) (n : Word) (x : Nat) (t : Tier) : (s.activateMirror n x t).sessions = s.sessions := rfl
@[simp] theorem State.activateMirror_captureQueue (s : State) (n : Word) (x : Nat) (t : Tier) : (s.activateMirror n x t).captureQueue = s.captureQueue := rfl
@[simp] theorem State.activateMirror_closingWait (s : State) (n : Word) (x : Nat) (t : Tier) : (s.activateMirror n x t).closingWait = s.closingWait := rfl
@[simp] theorem State.activateMirror_stallTimer (s : State) (n : Word) (x : Nat) (t : Tier) : (s.activateMirror n x t).stallTimer = s.stallTimer := rfl
@[simp] theorem State.activateMirror_headAge (s : State) (n : Word) (x : Nat) (t : Tier) : (s.activateMirror n x t).headAge = s.headAge := rfl
@[simp] theorem State.activateMirror_referrals (s : State) (n : Word) (x : Nat) (t : Tier) : (s.activateMirror n x t).referrals = s.referrals := rfl
@[simp] theorem State.activateMirror_referralNextId (s : State) (n : Word) (x : Nat) (t : Tier) : (s.activateMirror n x t).referralNextId = s.referralNextId := rfl
@[simp] theorem State.activateMirror_log (s : State) (n : Word) (x : Nat) (t : Tier) : (s.activateMirror n x t).log = s.log := rfl
@[simp] theorem State.activateMirror_logNext (s : State) (n : Word) (x : Nat) (t : Tier) : (s.activateMirror n x t).logNext = s.logNext := rfl
@[simp] theorem State.activateMirror_reserved (s : State) (n : Word) (x : Nat) (t : Tier) : (s.activateMirror n x t).reserved = s.reserved := rfl
@[simp] theorem State.activateMirror_meters (s : State) (n : Word) (x : Nat) (t : Tier) : (s.activateMirror n x t).meters = s.meters := rfl
@[simp] theorem State.activateMirror_stations (s : State) (n : Word) (x : Nat) (t : Tier) : (s.activateMirror n x t).stations = s.stations := rfl
@[simp] theorem State.activateMirror_io (s : State) (n : Word) (x : Nat) (t : Tier) : (s.activateMirror n x t).io = s.io := rfl
@[simp] theorem State.activateMirror_latched (s : State) (n : Word) (x : Nat) (t : Tier) : (s.activateMirror n x t).latched = s.latched := rfl
@[simp] theorem State.activateMirror_params (s : State) (n : Word) (x : Nat) (t : Tier) : (s.activateMirror n x t).params = s.params := rfl
@[simp] theorem State.activateMirror_resetCause (s : State) (n : Word) (x : Nat) (t : Tier) : (s.activateMirror n x t).resetCause = s.resetCause := rfl
@[simp] theorem State.activateMirror_uptime (s : State) (n : Word) (x : Nat) (t : Tier) : (s.activateMirror n x t).uptime = s.uptime := rfl
@[simp] theorem State.activateMirror_pending (s : State) (n : Word) (x : Nat) (t : Tier) : (s.activateMirror n x t).pending = s.pending := rfl

/-! `addHouse` -/
@[simp] theorem State.addHouse_house (s : State) (r : HouseRecord) : (s.addHouse r).house = (insertHouse r s.house) := rfl
@[simp] theorem State.addHouse_cards (s : State) (r : HouseRecord) : (s.addHouse r).cards = s.cards := rfl
@[simp] theorem State.addHouse_mirrors (s : State) (r : HouseRecord) : (s.addHouse r).mirrors = s.mirrors := rfl
@[simp] theorem State.addHouse_bankA (s : State) (r : HouseRecord) : (s.addHouse r).bankA = s.bankA := rfl
@[simp] theorem State.addHouse_bankB (s : State) (r : HouseRecord) : (s.addHouse r).bankB = s.bankB := rfl
@[simp] theorem State.addHouse_active (s : State) (r : HouseRecord) : (s.addHouse r).active = s.active := rfl
@[simp] theorem State.addHouse_genCounter (s : State) (r : HouseRecord) : (s.addHouse r).genCounter = s.genCounter := rfl
@[simp] theorem State.addHouse_runs (s : State) (r : HouseRecord) : (s.addHouse r).runs = s.runs := rfl
@[simp] theorem State.addHouse_paths (s : State) (r : HouseRecord) : (s.addHouse r).paths = s.paths := rfl
@[simp] theorem State.addHouse_jamTimers (s : State) (r : HouseRecord) : (s.addHouse r).jamTimers = s.jamTimers := rfl
@[simp] theorem State.addHouse_lostTimers (s : State) (r : HouseRecord) : (s.addHouse r).lostTimers = s.lostTimers := rfl
@[simp] theorem State.addHouse_sessions (s : State) (r : HouseRecord) : (s.addHouse r).sessions = s.sessions := rfl
@[simp] theorem State.addHouse_captureQueue (s : State) (r : HouseRecord) : (s.addHouse r).captureQueue = s.captureQueue := rfl
@[simp] theorem State.addHouse_closingWait (s : State) (r : HouseRecord) : (s.addHouse r).closingWait = s.closingWait := rfl
@[simp] theorem State.addHouse_stallTimer (s : State) (r : HouseRecord) : (s.addHouse r).stallTimer = s.stallTimer := rfl
@[simp] theorem State.addHouse_headAge (s : State) (r : HouseRecord) : (s.addHouse r).headAge = s.headAge := rfl
@[simp] theorem State.addHouse_referrals (s : State) (r : HouseRecord) : (s.addHouse r).referrals = s.referrals := rfl
@[simp] theorem State.addHouse_referralNextId (s : State) (r : HouseRecord) : (s.addHouse r).referralNextId = s.referralNextId := rfl
@[simp] theorem State.addHouse_log (s : State) (r : HouseRecord) : (s.addHouse r).log = s.log := rfl
@[simp] theorem State.addHouse_logNext (s : State) (r : HouseRecord) : (s.addHouse r).logNext = s.logNext := rfl
@[simp] theorem State.addHouse_reserved (s : State) (r : HouseRecord) : (s.addHouse r).reserved = s.reserved := rfl
@[simp] theorem State.addHouse_meters (s : State) (r : HouseRecord) : (s.addHouse r).meters = s.meters := rfl
@[simp] theorem State.addHouse_stations (s : State) (r : HouseRecord) : (s.addHouse r).stations = s.stations := rfl
@[simp] theorem State.addHouse_io (s : State) (r : HouseRecord) : (s.addHouse r).io = s.io := rfl
@[simp] theorem State.addHouse_latched (s : State) (r : HouseRecord) : (s.addHouse r).latched = s.latched := rfl
@[simp] theorem State.addHouse_params (s : State) (r : HouseRecord) : (s.addHouse r).params = s.params := rfl
@[simp] theorem State.addHouse_resetCause (s : State) (r : HouseRecord) : (s.addHouse r).resetCause = s.resetCause := rfl
@[simp] theorem State.addHouse_uptime (s : State) (r : HouseRecord) : (s.addHouse r).uptime = s.uptime := rfl
@[simp] theorem State.addHouse_pending (s : State) (r : HouseRecord) : (s.addHouse r).pending = s.pending := rfl

/-! `replaceHouse` -/
@[simp] theorem State.replaceHouse_house (s : State) (r : HouseRecord) : (s.replaceHouse r).house = (s.house.map (fun x => if x.number = r.number then r else x)) := rfl
@[simp] theorem State.replaceHouse_cards (s : State) (r : HouseRecord) : (s.replaceHouse r).cards = s.cards := rfl
@[simp] theorem State.replaceHouse_mirrors (s : State) (r : HouseRecord) : (s.replaceHouse r).mirrors = s.mirrors := rfl
@[simp] theorem State.replaceHouse_bankA (s : State) (r : HouseRecord) : (s.replaceHouse r).bankA = s.bankA := rfl
@[simp] theorem State.replaceHouse_bankB (s : State) (r : HouseRecord) : (s.replaceHouse r).bankB = s.bankB := rfl
@[simp] theorem State.replaceHouse_active (s : State) (r : HouseRecord) : (s.replaceHouse r).active = s.active := rfl
@[simp] theorem State.replaceHouse_genCounter (s : State) (r : HouseRecord) : (s.replaceHouse r).genCounter = s.genCounter := rfl
@[simp] theorem State.replaceHouse_runs (s : State) (r : HouseRecord) : (s.replaceHouse r).runs = s.runs := rfl
@[simp] theorem State.replaceHouse_paths (s : State) (r : HouseRecord) : (s.replaceHouse r).paths = s.paths := rfl
@[simp] theorem State.replaceHouse_jamTimers (s : State) (r : HouseRecord) : (s.replaceHouse r).jamTimers = s.jamTimers := rfl
@[simp] theorem State.replaceHouse_lostTimers (s : State) (r : HouseRecord) : (s.replaceHouse r).lostTimers = s.lostTimers := rfl
@[simp] theorem State.replaceHouse_sessions (s : State) (r : HouseRecord) : (s.replaceHouse r).sessions = s.sessions := rfl
@[simp] theorem State.replaceHouse_captureQueue (s : State) (r : HouseRecord) : (s.replaceHouse r).captureQueue = s.captureQueue := rfl
@[simp] theorem State.replaceHouse_closingWait (s : State) (r : HouseRecord) : (s.replaceHouse r).closingWait = s.closingWait := rfl
@[simp] theorem State.replaceHouse_stallTimer (s : State) (r : HouseRecord) : (s.replaceHouse r).stallTimer = s.stallTimer := rfl
@[simp] theorem State.replaceHouse_headAge (s : State) (r : HouseRecord) : (s.replaceHouse r).headAge = s.headAge := rfl
@[simp] theorem State.replaceHouse_referrals (s : State) (r : HouseRecord) : (s.replaceHouse r).referrals = s.referrals := rfl
@[simp] theorem State.replaceHouse_referralNextId (s : State) (r : HouseRecord) : (s.replaceHouse r).referralNextId = s.referralNextId := rfl
@[simp] theorem State.replaceHouse_log (s : State) (r : HouseRecord) : (s.replaceHouse r).log = s.log := rfl
@[simp] theorem State.replaceHouse_logNext (s : State) (r : HouseRecord) : (s.replaceHouse r).logNext = s.logNext := rfl
@[simp] theorem State.replaceHouse_reserved (s : State) (r : HouseRecord) : (s.replaceHouse r).reserved = s.reserved := rfl
@[simp] theorem State.replaceHouse_meters (s : State) (r : HouseRecord) : (s.replaceHouse r).meters = s.meters := rfl
@[simp] theorem State.replaceHouse_stations (s : State) (r : HouseRecord) : (s.replaceHouse r).stations = s.stations := rfl
@[simp] theorem State.replaceHouse_io (s : State) (r : HouseRecord) : (s.replaceHouse r).io = s.io := rfl
@[simp] theorem State.replaceHouse_latched (s : State) (r : HouseRecord) : (s.replaceHouse r).latched = s.latched := rfl
@[simp] theorem State.replaceHouse_params (s : State) (r : HouseRecord) : (s.replaceHouse r).params = s.params := rfl
@[simp] theorem State.replaceHouse_resetCause (s : State) (r : HouseRecord) : (s.replaceHouse r).resetCause = s.resetCause := rfl
@[simp] theorem State.replaceHouse_uptime (s : State) (r : HouseRecord) : (s.replaceHouse r).uptime = s.uptime := rfl
@[simp] theorem State.replaceHouse_pending (s : State) (r : HouseRecord) : (s.replaceHouse r).pending = s.pending := rfl

/-! `removeHouse` -/
@[simp] theorem State.removeHouse_house (s : State) (n : Word) : (s.removeHouse n).house = (s.house.filter (fun r => r.number != n)) := rfl
@[simp] theorem State.removeHouse_cards (s : State) (n : Word) : (s.removeHouse n).cards = s.cards := rfl
@[simp] theorem State.removeHouse_mirrors (s : State) (n : Word) : (s.removeHouse n).mirrors = s.mirrors := rfl
@[simp] theorem State.removeHouse_bankA (s : State) (n : Word) : (s.removeHouse n).bankA = s.bankA := rfl
@[simp] theorem State.removeHouse_bankB (s : State) (n : Word) : (s.removeHouse n).bankB = s.bankB := rfl
@[simp] theorem State.removeHouse_active (s : State) (n : Word) : (s.removeHouse n).active = s.active := rfl
@[simp] theorem State.removeHouse_genCounter (s : State) (n : Word) : (s.removeHouse n).genCounter = s.genCounter := rfl
@[simp] theorem State.removeHouse_runs (s : State) (n : Word) : (s.removeHouse n).runs = s.runs := rfl
@[simp] theorem State.removeHouse_paths (s : State) (n : Word) : (s.removeHouse n).paths = s.paths := rfl
@[simp] theorem State.removeHouse_jamTimers (s : State) (n : Word) : (s.removeHouse n).jamTimers = s.jamTimers := rfl
@[simp] theorem State.removeHouse_lostTimers (s : State) (n : Word) : (s.removeHouse n).lostTimers = s.lostTimers := rfl
@[simp] theorem State.removeHouse_sessions (s : State) (n : Word) : (s.removeHouse n).sessions = s.sessions := rfl
@[simp] theorem State.removeHouse_captureQueue (s : State) (n : Word) : (s.removeHouse n).captureQueue = s.captureQueue := rfl
@[simp] theorem State.removeHouse_closingWait (s : State) (n : Word) : (s.removeHouse n).closingWait = s.closingWait := rfl
@[simp] theorem State.removeHouse_stallTimer (s : State) (n : Word) : (s.removeHouse n).stallTimer = s.stallTimer := rfl
@[simp] theorem State.removeHouse_headAge (s : State) (n : Word) : (s.removeHouse n).headAge = s.headAge := rfl
@[simp] theorem State.removeHouse_referrals (s : State) (n : Word) : (s.removeHouse n).referrals = s.referrals := rfl
@[simp] theorem State.removeHouse_referralNextId (s : State) (n : Word) : (s.removeHouse n).referralNextId = s.referralNextId := rfl
@[simp] theorem State.removeHouse_log (s : State) (n : Word) : (s.removeHouse n).log = s.log := rfl
@[simp] theorem State.removeHouse_logNext (s : State) (n : Word) : (s.removeHouse n).logNext = s.logNext := rfl
@[simp] theorem State.removeHouse_reserved (s : State) (n : Word) : (s.removeHouse n).reserved = s.reserved := rfl
@[simp] theorem State.removeHouse_meters (s : State) (n : Word) : (s.removeHouse n).meters = s.meters := rfl
@[simp] theorem State.removeHouse_stations (s : State) (n : Word) : (s.removeHouse n).stations = s.stations := rfl
@[simp] theorem State.removeHouse_io (s : State) (n : Word) : (s.removeHouse n).io = s.io := rfl
@[simp] theorem State.removeHouse_latched (s : State) (n : Word) : (s.removeHouse n).latched = s.latched := rfl
@[simp] theorem State.removeHouse_params (s : State) (n : Word) : (s.removeHouse n).params = s.params := rfl
@[simp] theorem State.removeHouse_resetCause (s : State) (n : Word) : (s.removeHouse n).resetCause = s.resetCause := rfl
@[simp] theorem State.removeHouse_uptime (s : State) (n : Word) : (s.removeHouse n).uptime = s.uptime := rfl
@[simp] theorem State.removeHouse_pending (s : State) (n : Word) : (s.removeHouse n).pending = s.pending := rfl

/-! `setPort` -/
@[simp] theorem State.setPort_house (s : State) (link : Link) (p : Port) : (s.setPort link p).house = s.house := rfl
@[simp] theorem State.setPort_cards (s : State) (link : Link) (p : Port) : (s.setPort link p).cards = s.cards := rfl
@[simp] theorem State.setPort_mirrors (s : State) (link : Link) (p : Port) : (s.setPort link p).mirrors = s.mirrors := rfl
@[simp] theorem State.setPort_bankA (s : State) (link : Link) (p : Port) : (s.setPort link p).bankA = s.bankA := rfl
@[simp] theorem State.setPort_bankB (s : State) (link : Link) (p : Port) : (s.setPort link p).bankB = s.bankB := rfl
@[simp] theorem State.setPort_active (s : State) (link : Link) (p : Port) : (s.setPort link p).active = s.active := rfl
@[simp] theorem State.setPort_genCounter (s : State) (link : Link) (p : Port) : (s.setPort link p).genCounter = s.genCounter := rfl
@[simp] theorem State.setPort_runs (s : State) (link : Link) (p : Port) : (s.setPort link p).runs = s.runs := rfl
@[simp] theorem State.setPort_paths (s : State) (link : Link) (p : Port) : (s.setPort link p).paths = s.paths := rfl
@[simp] theorem State.setPort_jamTimers (s : State) (link : Link) (p : Port) : (s.setPort link p).jamTimers = s.jamTimers := rfl
@[simp] theorem State.setPort_lostTimers (s : State) (link : Link) (p : Port) : (s.setPort link p).lostTimers = s.lostTimers := rfl
@[simp] theorem State.setPort_sessions (s : State) (link : Link) (p : Port) : (s.setPort link p).sessions = s.sessions := rfl
@[simp] theorem State.setPort_captureQueue (s : State) (link : Link) (p : Port) : (s.setPort link p).captureQueue = s.captureQueue := rfl
@[simp] theorem State.setPort_closingWait (s : State) (link : Link) (p : Port) : (s.setPort link p).closingWait = s.closingWait := rfl
@[simp] theorem State.setPort_stallTimer (s : State) (link : Link) (p : Port) : (s.setPort link p).stallTimer = s.stallTimer := rfl
@[simp] theorem State.setPort_headAge (s : State) (link : Link) (p : Port) : (s.setPort link p).headAge = s.headAge := rfl
@[simp] theorem State.setPort_referrals (s : State) (link : Link) (p : Port) : (s.setPort link p).referrals = s.referrals := rfl
@[simp] theorem State.setPort_referralNextId (s : State) (link : Link) (p : Port) : (s.setPort link p).referralNextId = s.referralNextId := rfl
@[simp] theorem State.setPort_log (s : State) (link : Link) (p : Port) : (s.setPort link p).log = s.log := rfl
@[simp] theorem State.setPort_logNext (s : State) (link : Link) (p : Port) : (s.setPort link p).logNext = s.logNext := rfl
@[simp] theorem State.setPort_reserved (s : State) (link : Link) (p : Port) : (s.setPort link p).reserved = s.reserved := rfl
@[simp] theorem State.setPort_meters (s : State) (link : Link) (p : Port) : (s.setPort link p).meters = s.meters := rfl
@[simp] theorem State.setPort_stations (s : State) (link : Link) (p : Port) : (s.setPort link p).stations = s.stations := rfl
@[simp] theorem State.setPort_io (s : State) (link : Link) (p : Port) : (s.setPort link p).io = (s.io.setPort link p) := rfl
@[simp] theorem State.setPort_latched (s : State) (link : Link) (p : Port) : (s.setPort link p).latched = s.latched := rfl
@[simp] theorem State.setPort_params (s : State) (link : Link) (p : Port) : (s.setPort link p).params = s.params := rfl
@[simp] theorem State.setPort_resetCause (s : State) (link : Link) (p : Port) : (s.setPort link p).resetCause = s.resetCause := rfl
@[simp] theorem State.setPort_uptime (s : State) (link : Link) (p : Port) : (s.setPort link p).uptime = s.uptime := rfl
@[simp] theorem State.setPort_pending (s : State) (link : Link) (p : Port) : (s.setPort link p).pending = s.pending := rfl

/-! `setReceiver` -/
@[simp] theorem State.setReceiver_house (s : State) (link : Link) (r : Receiver) : (s.setReceiver link r).house = s.house := rfl
@[simp] theorem State.setReceiver_cards (s : State) (link : Link) (r : Receiver) : (s.setReceiver link r).cards = s.cards := rfl
@[simp] theorem State.setReceiver_mirrors (s : State) (link : Link) (r : Receiver) : (s.setReceiver link r).mirrors = s.mirrors := rfl
@[simp] theorem State.setReceiver_bankA (s : State) (link : Link) (r : Receiver) : (s.setReceiver link r).bankA = s.bankA := rfl
@[simp] theorem State.setReceiver_bankB (s : State) (link : Link) (r : Receiver) : (s.setReceiver link r).bankB = s.bankB := rfl
@[simp] theorem State.setReceiver_active (s : State) (link : Link) (r : Receiver) : (s.setReceiver link r).active = s.active := rfl
@[simp] theorem State.setReceiver_genCounter (s : State) (link : Link) (r : Receiver) : (s.setReceiver link r).genCounter = s.genCounter := rfl
@[simp] theorem State.setReceiver_runs (s : State) (link : Link) (r : Receiver) : (s.setReceiver link r).runs = s.runs := rfl
@[simp] theorem State.setReceiver_paths (s : State) (link : Link) (r : Receiver) : (s.setReceiver link r).paths = s.paths := rfl
@[simp] theorem State.setReceiver_jamTimers (s : State) (link : Link) (r : Receiver) : (s.setReceiver link r).jamTimers = s.jamTimers := rfl
@[simp] theorem State.setReceiver_lostTimers (s : State) (link : Link) (r : Receiver) : (s.setReceiver link r).lostTimers = s.lostTimers := rfl
@[simp] theorem State.setReceiver_sessions (s : State) (link : Link) (r : Receiver) : (s.setReceiver link r).sessions = s.sessions := rfl
@[simp] theorem State.setReceiver_captureQueue (s : State) (link : Link) (r : Receiver) : (s.setReceiver link r).captureQueue = s.captureQueue := rfl
@[simp] theorem State.setReceiver_closingWait (s : State) (link : Link) (r : Receiver) : (s.setReceiver link r).closingWait = s.closingWait := rfl
@[simp] theorem State.setReceiver_stallTimer (s : State) (link : Link) (r : Receiver) : (s.setReceiver link r).stallTimer = s.stallTimer := rfl
@[simp] theorem State.setReceiver_headAge (s : State) (link : Link) (r : Receiver) : (s.setReceiver link r).headAge = s.headAge := rfl
@[simp] theorem State.setReceiver_referrals (s : State) (link : Link) (r : Receiver) : (s.setReceiver link r).referrals = s.referrals := rfl
@[simp] theorem State.setReceiver_referralNextId (s : State) (link : Link) (r : Receiver) : (s.setReceiver link r).referralNextId = s.referralNextId := rfl
@[simp] theorem State.setReceiver_log (s : State) (link : Link) (r : Receiver) : (s.setReceiver link r).log = s.log := rfl
@[simp] theorem State.setReceiver_logNext (s : State) (link : Link) (r : Receiver) : (s.setReceiver link r).logNext = s.logNext := rfl
@[simp] theorem State.setReceiver_reserved (s : State) (link : Link) (r : Receiver) : (s.setReceiver link r).reserved = s.reserved := rfl
@[simp] theorem State.setReceiver_meters (s : State) (link : Link) (r : Receiver) : (s.setReceiver link r).meters = s.meters := rfl
@[simp] theorem State.setReceiver_stations (s : State) (link : Link) (r : Receiver) : (s.setReceiver link r).stations = s.stations := rfl
@[simp] theorem State.setReceiver_io (s : State) (link : Link) (r : Receiver) : (s.setReceiver link r).io = (s.io.setPort link { s.port link with receiver := r }) := rfl
@[simp] theorem State.setReceiver_latched (s : State) (link : Link) (r : Receiver) : (s.setReceiver link r).latched = s.latched := rfl
@[simp] theorem State.setReceiver_params (s : State) (link : Link) (r : Receiver) : (s.setReceiver link r).params = s.params := rfl
@[simp] theorem State.setReceiver_resetCause (s : State) (link : Link) (r : Receiver) : (s.setReceiver link r).resetCause = s.resetCause := rfl
@[simp] theorem State.setReceiver_uptime (s : State) (link : Link) (r : Receiver) : (s.setReceiver link r).uptime = s.uptime := rfl
@[simp] theorem State.setReceiver_pending (s : State) (link : Link) (r : Receiver) : (s.setReceiver link r).pending = s.pending := rfl

/-! `countAccepted` -/
@[simp] theorem State.countAccepted_house (s : State) (link : Link) : (s.countAccepted link).house = s.house := rfl
@[simp] theorem State.countAccepted_cards (s : State) (link : Link) : (s.countAccepted link).cards = s.cards := rfl
@[simp] theorem State.countAccepted_mirrors (s : State) (link : Link) : (s.countAccepted link).mirrors = s.mirrors := rfl
@[simp] theorem State.countAccepted_bankA (s : State) (link : Link) : (s.countAccepted link).bankA = s.bankA := rfl
@[simp] theorem State.countAccepted_bankB (s : State) (link : Link) : (s.countAccepted link).bankB = s.bankB := rfl
@[simp] theorem State.countAccepted_active (s : State) (link : Link) : (s.countAccepted link).active = s.active := rfl
@[simp] theorem State.countAccepted_genCounter (s : State) (link : Link) : (s.countAccepted link).genCounter = s.genCounter := rfl
@[simp] theorem State.countAccepted_runs (s : State) (link : Link) : (s.countAccepted link).runs = s.runs := rfl
@[simp] theorem State.countAccepted_paths (s : State) (link : Link) : (s.countAccepted link).paths = s.paths := rfl
@[simp] theorem State.countAccepted_jamTimers (s : State) (link : Link) : (s.countAccepted link).jamTimers = s.jamTimers := rfl
@[simp] theorem State.countAccepted_lostTimers (s : State) (link : Link) : (s.countAccepted link).lostTimers = s.lostTimers := rfl
@[simp] theorem State.countAccepted_sessions (s : State) (link : Link) : (s.countAccepted link).sessions = s.sessions := rfl
@[simp] theorem State.countAccepted_captureQueue (s : State) (link : Link) : (s.countAccepted link).captureQueue = s.captureQueue := rfl
@[simp] theorem State.countAccepted_closingWait (s : State) (link : Link) : (s.countAccepted link).closingWait = s.closingWait := rfl
@[simp] theorem State.countAccepted_stallTimer (s : State) (link : Link) : (s.countAccepted link).stallTimer = s.stallTimer := rfl
@[simp] theorem State.countAccepted_headAge (s : State) (link : Link) : (s.countAccepted link).headAge = s.headAge := rfl
@[simp] theorem State.countAccepted_referrals (s : State) (link : Link) : (s.countAccepted link).referrals = s.referrals := rfl
@[simp] theorem State.countAccepted_referralNextId (s : State) (link : Link) : (s.countAccepted link).referralNextId = s.referralNextId := rfl
@[simp] theorem State.countAccepted_log (s : State) (link : Link) : (s.countAccepted link).log = s.log := rfl
@[simp] theorem State.countAccepted_logNext (s : State) (link : Link) : (s.countAccepted link).logNext = s.logNext := rfl
@[simp] theorem State.countAccepted_reserved (s : State) (link : Link) : (s.countAccepted link).reserved = s.reserved := rfl
@[simp] theorem State.countAccepted_meters (s : State) (link : Link) : (s.countAccepted link).meters = s.meters := rfl
@[simp] theorem State.countAccepted_stations (s : State) (link : Link) : (s.countAccepted link).stations = s.stations := rfl
@[simp] theorem State.countAccepted_io (s : State) (link : Link) : (s.countAccepted link).io = (s.io.setPort link { s.port link with accepted := countUp (s.port link).accepted }) := rfl
@[simp] theorem State.countAccepted_latched (s : State) (link : Link) : (s.countAccepted link).latched = s.latched := rfl
@[simp] theorem State.countAccepted_params (s : State) (link : Link) : (s.countAccepted link).params = s.params := rfl
@[simp] theorem State.countAccepted_resetCause (s : State) (link : Link) : (s.countAccepted link).resetCause = s.resetCause := rfl
@[simp] theorem State.countAccepted_uptime (s : State) (link : Link) : (s.countAccepted link).uptime = s.uptime := rfl
@[simp] theorem State.countAccepted_pending (s : State) (link : Link) : (s.countAccepted link).pending = s.pending := rfl

/-! `countRefused` -/
@[simp] theorem State.countRefused_house (s : State) (link : Link) : (s.countRefused link).house = s.house := rfl
@[simp] theorem State.countRefused_cards (s : State) (link : Link) : (s.countRefused link).cards = s.cards := rfl
@[simp] theorem State.countRefused_mirrors (s : State) (link : Link) : (s.countRefused link).mirrors = s.mirrors := rfl
@[simp] theorem State.countRefused_bankA (s : State) (link : Link) : (s.countRefused link).bankA = s.bankA := rfl
@[simp] theorem State.countRefused_bankB (s : State) (link : Link) : (s.countRefused link).bankB = s.bankB := rfl
@[simp] theorem State.countRefused_active (s : State) (link : Link) : (s.countRefused link).active = s.active := rfl
@[simp] theorem State.countRefused_genCounter (s : State) (link : Link) : (s.countRefused link).genCounter = s.genCounter := rfl
@[simp] theorem State.countRefused_runs (s : State) (link : Link) : (s.countRefused link).runs = s.runs := rfl
@[simp] theorem State.countRefused_paths (s : State) (link : Link) : (s.countRefused link).paths = s.paths := rfl
@[simp] theorem State.countRefused_jamTimers (s : State) (link : Link) : (s.countRefused link).jamTimers = s.jamTimers := rfl
@[simp] theorem State.countRefused_lostTimers (s : State) (link : Link) : (s.countRefused link).lostTimers = s.lostTimers := rfl
@[simp] theorem State.countRefused_sessions (s : State) (link : Link) : (s.countRefused link).sessions = s.sessions := rfl
@[simp] theorem State.countRefused_captureQueue (s : State) (link : Link) : (s.countRefused link).captureQueue = s.captureQueue := rfl
@[simp] theorem State.countRefused_closingWait (s : State) (link : Link) : (s.countRefused link).closingWait = s.closingWait := rfl
@[simp] theorem State.countRefused_stallTimer (s : State) (link : Link) : (s.countRefused link).stallTimer = s.stallTimer := rfl
@[simp] theorem State.countRefused_headAge (s : State) (link : Link) : (s.countRefused link).headAge = s.headAge := rfl
@[simp] theorem State.countRefused_referrals (s : State) (link : Link) : (s.countRefused link).referrals = s.referrals := rfl
@[simp] theorem State.countRefused_referralNextId (s : State) (link : Link) : (s.countRefused link).referralNextId = s.referralNextId := rfl
@[simp] theorem State.countRefused_log (s : State) (link : Link) : (s.countRefused link).log = s.log := rfl
@[simp] theorem State.countRefused_logNext (s : State) (link : Link) : (s.countRefused link).logNext = s.logNext := rfl
@[simp] theorem State.countRefused_reserved (s : State) (link : Link) : (s.countRefused link).reserved = s.reserved := rfl
@[simp] theorem State.countRefused_meters (s : State) (link : Link) : (s.countRefused link).meters = s.meters := rfl
@[simp] theorem State.countRefused_stations (s : State) (link : Link) : (s.countRefused link).stations = s.stations := rfl
@[simp] theorem State.countRefused_io (s : State) (link : Link) : (s.countRefused link).io = (s.io.setPort link { s.port link with refused := countUp (s.port link).refused }) := rfl
@[simp] theorem State.countRefused_latched (s : State) (link : Link) : (s.countRefused link).latched = s.latched := rfl
@[simp] theorem State.countRefused_params (s : State) (link : Link) : (s.countRefused link).params = s.params := rfl
@[simp] theorem State.countRefused_resetCause (s : State) (link : Link) : (s.countRefused link).resetCause = s.resetCause := rfl
@[simp] theorem State.countRefused_uptime (s : State) (link : Link) : (s.countRefused link).uptime = s.uptime := rfl
@[simp] theorem State.countRefused_pending (s : State) (link : Link) : (s.countRefused link).pending = s.pending := rfl

/-! `setViolation` -/
@[simp] theorem State.setViolation_house (s : State) (v : Option Violation) : (s.setViolation v).house = s.house := rfl
@[simp] theorem State.setViolation_cards (s : State) (v : Option Violation) : (s.setViolation v).cards = s.cards := rfl
@[simp] theorem State.setViolation_mirrors (s : State) (v : Option Violation) : (s.setViolation v).mirrors = s.mirrors := rfl
@[simp] theorem State.setViolation_bankA (s : State) (v : Option Violation) : (s.setViolation v).bankA = s.bankA := rfl
@[simp] theorem State.setViolation_bankB (s : State) (v : Option Violation) : (s.setViolation v).bankB = s.bankB := rfl
@[simp] theorem State.setViolation_active (s : State) (v : Option Violation) : (s.setViolation v).active = s.active := rfl
@[simp] theorem State.setViolation_genCounter (s : State) (v : Option Violation) : (s.setViolation v).genCounter = s.genCounter := rfl
@[simp] theorem State.setViolation_runs (s : State) (v : Option Violation) : (s.setViolation v).runs = s.runs := rfl
@[simp] theorem State.setViolation_paths (s : State) (v : Option Violation) : (s.setViolation v).paths = s.paths := rfl
@[simp] theorem State.setViolation_jamTimers (s : State) (v : Option Violation) : (s.setViolation v).jamTimers = s.jamTimers := rfl
@[simp] theorem State.setViolation_lostTimers (s : State) (v : Option Violation) : (s.setViolation v).lostTimers = s.lostTimers := rfl
@[simp] theorem State.setViolation_sessions (s : State) (v : Option Violation) : (s.setViolation v).sessions = s.sessions := rfl
@[simp] theorem State.setViolation_captureQueue (s : State) (v : Option Violation) : (s.setViolation v).captureQueue = s.captureQueue := rfl
@[simp] theorem State.setViolation_closingWait (s : State) (v : Option Violation) : (s.setViolation v).closingWait = s.closingWait := rfl
@[simp] theorem State.setViolation_stallTimer (s : State) (v : Option Violation) : (s.setViolation v).stallTimer = s.stallTimer := rfl
@[simp] theorem State.setViolation_headAge (s : State) (v : Option Violation) : (s.setViolation v).headAge = s.headAge := rfl
@[simp] theorem State.setViolation_referrals (s : State) (v : Option Violation) : (s.setViolation v).referrals = s.referrals := rfl
@[simp] theorem State.setViolation_referralNextId (s : State) (v : Option Violation) : (s.setViolation v).referralNextId = s.referralNextId := rfl
@[simp] theorem State.setViolation_log (s : State) (v : Option Violation) : (s.setViolation v).log = s.log := rfl
@[simp] theorem State.setViolation_logNext (s : State) (v : Option Violation) : (s.setViolation v).logNext = s.logNext := rfl
@[simp] theorem State.setViolation_reserved (s : State) (v : Option Violation) : (s.setViolation v).reserved = s.reserved := rfl
@[simp] theorem State.setViolation_meters (s : State) (v : Option Violation) : (s.setViolation v).meters = s.meters := rfl
@[simp] theorem State.setViolation_stations (s : State) (v : Option Violation) : (s.setViolation v).stations = s.stations := rfl
@[simp] theorem State.setViolation_io (s : State) (v : Option Violation) : (s.setViolation v).io = ({ s.io with lastViolation := v }) := rfl
@[simp] theorem State.setViolation_latched (s : State) (v : Option Violation) : (s.setViolation v).latched = s.latched := rfl
@[simp] theorem State.setViolation_params (s : State) (v : Option Violation) : (s.setViolation v).params = s.params := rfl
@[simp] theorem State.setViolation_resetCause (s : State) (v : Option Violation) : (s.setViolation v).resetCause = s.resetCause := rfl
@[simp] theorem State.setViolation_uptime (s : State) (v : Option Violation) : (s.setViolation v).uptime = s.uptime := rfl
@[simp] theorem State.setViolation_pending (s : State) (v : Option Violation) : (s.setViolation v).pending = s.pending := rfl

/-! `dropResponse` -/
@[simp] theorem State.dropResponse_house (s : State) : (s.dropResponse).house = s.house := rfl
@[simp] theorem State.dropResponse_cards (s : State) : (s.dropResponse).cards = s.cards := rfl
@[simp] theorem State.dropResponse_mirrors (s : State) : (s.dropResponse).mirrors = s.mirrors := rfl
@[simp] theorem State.dropResponse_bankA (s : State) : (s.dropResponse).bankA = s.bankA := rfl
@[simp] theorem State.dropResponse_bankB (s : State) : (s.dropResponse).bankB = s.bankB := rfl
@[simp] theorem State.dropResponse_active (s : State) : (s.dropResponse).active = s.active := rfl
@[simp] theorem State.dropResponse_genCounter (s : State) : (s.dropResponse).genCounter = s.genCounter := rfl
@[simp] theorem State.dropResponse_runs (s : State) : (s.dropResponse).runs = s.runs := rfl
@[simp] theorem State.dropResponse_paths (s : State) : (s.dropResponse).paths = s.paths := rfl
@[simp] theorem State.dropResponse_jamTimers (s : State) : (s.dropResponse).jamTimers = s.jamTimers := rfl
@[simp] theorem State.dropResponse_lostTimers (s : State) : (s.dropResponse).lostTimers = s.lostTimers := rfl
@[simp] theorem State.dropResponse_sessions (s : State) : (s.dropResponse).sessions = s.sessions := rfl
@[simp] theorem State.dropResponse_captureQueue (s : State) : (s.dropResponse).captureQueue = s.captureQueue := rfl
@[simp] theorem State.dropResponse_closingWait (s : State) : (s.dropResponse).closingWait = s.closingWait := rfl
@[simp] theorem State.dropResponse_stallTimer (s : State) : (s.dropResponse).stallTimer = s.stallTimer := rfl
@[simp] theorem State.dropResponse_headAge (s : State) : (s.dropResponse).headAge = s.headAge := rfl
@[simp] theorem State.dropResponse_referrals (s : State) : (s.dropResponse).referrals = s.referrals := rfl
@[simp] theorem State.dropResponse_referralNextId (s : State) : (s.dropResponse).referralNextId = s.referralNextId := rfl
@[simp] theorem State.dropResponse_log (s : State) : (s.dropResponse).log = s.log := rfl
@[simp] theorem State.dropResponse_logNext (s : State) : (s.dropResponse).logNext = s.logNext := rfl
@[simp] theorem State.dropResponse_reserved (s : State) : (s.dropResponse).reserved = s.reserved := rfl
@[simp] theorem State.dropResponse_meters (s : State) : (s.dropResponse).meters = s.meters := rfl
@[simp] theorem State.dropResponse_stations (s : State) : (s.dropResponse).stations = s.stations := rfl
@[simp] theorem State.dropResponse_io (s : State) : (s.dropResponse).io = ({ s.io with mWaiting := none, mSent := 0 }) := rfl
@[simp] theorem State.dropResponse_latched (s : State) : (s.dropResponse).latched = s.latched := rfl
@[simp] theorem State.dropResponse_params (s : State) : (s.dropResponse).params = s.params := rfl
@[simp] theorem State.dropResponse_resetCause (s : State) : (s.dropResponse).resetCause = s.resetCause := rfl
@[simp] theorem State.dropResponse_uptime (s : State) : (s.dropResponse).uptime = s.uptime := rfl
@[simp] theorem State.dropResponse_pending (s : State) : (s.dropResponse).pending = s.pending := rfl

/-! `hearStation` -/
@[simp] theorem State.hearStation_house (s : State) (st : Station) : (s.hearStation st).house = s.house := rfl
@[simp] theorem State.hearStation_cards (s : State) (st : Station) : (s.hearStation st).cards = s.cards := rfl
@[simp] theorem State.hearStation_mirrors (s : State) (st : Station) : (s.hearStation st).mirrors = s.mirrors := rfl
@[simp] theorem State.hearStation_bankA (s : State) (st : Station) : (s.hearStation st).bankA = s.bankA := rfl
@[simp] theorem State.hearStation_bankB (s : State) (st : Station) : (s.hearStation st).bankB = s.bankB := rfl
@[simp] theorem State.hearStation_active (s : State) (st : Station) : (s.hearStation st).active = s.active := rfl
@[simp] theorem State.hearStation_genCounter (s : State) (st : Station) : (s.hearStation st).genCounter = s.genCounter := rfl
@[simp] theorem State.hearStation_runs (s : State) (st : Station) : (s.hearStation st).runs = s.runs := rfl
@[simp] theorem State.hearStation_paths (s : State) (st : Station) : (s.hearStation st).paths = s.paths := rfl
@[simp] theorem State.hearStation_jamTimers (s : State) (st : Station) : (s.hearStation st).jamTimers = s.jamTimers := rfl
@[simp] theorem State.hearStation_lostTimers (s : State) (st : Station) : (s.hearStation st).lostTimers = (if s.isSilent st then s.lostTimers.set st none else s.lostTimers) := rfl
@[simp] theorem State.hearStation_sessions (s : State) (st : Station) : (s.hearStation st).sessions = s.sessions := rfl
@[simp] theorem State.hearStation_captureQueue (s : State) (st : Station) : (s.hearStation st).captureQueue = s.captureQueue := rfl
@[simp] theorem State.hearStation_closingWait (s : State) (st : Station) : (s.hearStation st).closingWait = s.closingWait := rfl
@[simp] theorem State.hearStation_stallTimer (s : State) (st : Station) : (s.hearStation st).stallTimer = s.stallTimer := rfl
@[simp] theorem State.hearStation_headAge (s : State) (st : Station) : (s.hearStation st).headAge = s.headAge := rfl
@[simp] theorem State.hearStation_referrals (s : State) (st : Station) : (s.hearStation st).referrals = s.referrals := rfl
@[simp] theorem State.hearStation_referralNextId (s : State) (st : Station) : (s.hearStation st).referralNextId = s.referralNextId := rfl
@[simp] theorem State.hearStation_log (s : State) (st : Station) : (s.hearStation st).log = s.log := rfl
@[simp] theorem State.hearStation_logNext (s : State) (st : Station) : (s.hearStation st).logNext = s.logNext := rfl
@[simp] theorem State.hearStation_reserved (s : State) (st : Station) : (s.hearStation st).reserved = s.reserved := rfl
@[simp] theorem State.hearStation_meters (s : State) (st : Station) : (s.hearStation st).meters = s.meters := rfl
@[simp] theorem State.hearStation_stations (s : State) (st : Station) : (s.hearStation st).stations = (s.stations.set st { s.stations[st] with presence := .present, silence := s.silenceAfterFrame s.stations[st] }) := rfl
@[simp] theorem State.hearStation_io (s : State) (st : Station) : (s.hearStation st).io = s.io := rfl
@[simp] theorem State.hearStation_latched (s : State) (st : Station) : (s.hearStation st).latched = (if s.isSilent st then s.latched ||| Event.stationBack.mask else s.latched) := rfl
@[simp] theorem State.hearStation_params (s : State) (st : Station) : (s.hearStation st).params = s.params := rfl
@[simp] theorem State.hearStation_resetCause (s : State) (st : Station) : (s.hearStation st).resetCause = s.resetCause := rfl
@[simp] theorem State.hearStation_uptime (s : State) (st : Station) : (s.hearStation st).uptime = s.uptime := rfl
@[simp] theorem State.hearStation_pending (s : State) (st : Station) : (s.hearStation st).pending = s.pending := rfl

/-! `transmit` -/
@[simp] theorem State.transmit_house (s : State) : (s.transmit).house = s.house := rfl
@[simp] theorem State.transmit_cards (s : State) : (s.transmit).cards = s.cards := rfl
@[simp] theorem State.transmit_mirrors (s : State) : (s.transmit).mirrors = s.mirrors := rfl
@[simp] theorem State.transmit_bankA (s : State) : (s.transmit).bankA = s.bankA := rfl
@[simp] theorem State.transmit_bankB (s : State) : (s.transmit).bankB = s.bankB := rfl
@[simp] theorem State.transmit_active (s : State) : (s.transmit).active = s.active := rfl
@[simp] theorem State.transmit_genCounter (s : State) : (s.transmit).genCounter = s.genCounter := rfl
@[simp] theorem State.transmit_runs (s : State) : (s.transmit).runs = s.runs := rfl
@[simp] theorem State.transmit_paths (s : State) : (s.transmit).paths = s.paths := rfl
@[simp] theorem State.transmit_jamTimers (s : State) : (s.transmit).jamTimers = s.jamTimers := rfl
@[simp] theorem State.transmit_lostTimers (s : State) : (s.transmit).lostTimers = s.lostTimers := rfl
@[simp] theorem State.transmit_sessions (s : State) : (s.transmit).sessions = s.sessions := rfl
@[simp] theorem State.transmit_captureQueue (s : State) : (s.transmit).captureQueue = s.captureQueue := rfl
@[simp] theorem State.transmit_closingWait (s : State) : (s.transmit).closingWait = s.closingWait := rfl
@[simp] theorem State.transmit_stallTimer (s : State) : (s.transmit).stallTimer = s.stallTimer := rfl
@[simp] theorem State.transmit_headAge (s : State) : (s.transmit).headAge = s.headAge := rfl
@[simp] theorem State.transmit_referrals (s : State) : (s.transmit).referrals = s.referrals := rfl
@[simp] theorem State.transmit_referralNextId (s : State) : (s.transmit).referralNextId = s.referralNextId := rfl
@[simp] theorem State.transmit_log (s : State) : (s.transmit).log = s.log := rfl
@[simp] theorem State.transmit_logNext (s : State) : (s.transmit).logNext = s.logNext := rfl
@[simp] theorem State.transmit_reserved (s : State) : (s.transmit).reserved = s.reserved := rfl
@[simp] theorem State.transmit_meters (s : State) : (s.transmit).meters = s.meters := rfl
@[simp] theorem State.transmit_stations (s : State) : (s.transmit).stations = s.stations := rfl
@[simp] theorem State.transmit_io (s : State) : (s.transmit).io = ({ s.io with cOut := s.io.cOut.map (·.drop 1), pOut := s.io.pOut.drop 1 }) := rfl
@[simp] theorem State.transmit_latched (s : State) : (s.transmit).latched = s.latched := rfl
@[simp] theorem State.transmit_params (s : State) : (s.transmit).params = s.params := rfl
@[simp] theorem State.transmit_resetCause (s : State) : (s.transmit).resetCause = s.resetCause := rfl
@[simp] theorem State.transmit_uptime (s : State) : (s.transmit).uptime = s.uptime := rfl
@[simp] theorem State.transmit_pending (s : State) : (s.transmit).pending = s.pending := rfl

/-! `respond` -/
@[simp] theorem State.respond_house (s : State) (link : Link) (r : Response) : (s.respond link r).house = s.house := by cases link <;> rfl
@[simp] theorem State.respond_cards (s : State) (link : Link) (r : Response) : (s.respond link r).cards = s.cards := by cases link <;> rfl
@[simp] theorem State.respond_mirrors (s : State) (link : Link) (r : Response) : (s.respond link r).mirrors = s.mirrors := by cases link <;> rfl
@[simp] theorem State.respond_bankA (s : State) (link : Link) (r : Response) : (s.respond link r).bankA = s.bankA := by cases link <;> rfl
@[simp] theorem State.respond_bankB (s : State) (link : Link) (r : Response) : (s.respond link r).bankB = s.bankB := by cases link <;> rfl
@[simp] theorem State.respond_active (s : State) (link : Link) (r : Response) : (s.respond link r).active = s.active := by cases link <;> rfl
@[simp] theorem State.respond_genCounter (s : State) (link : Link) (r : Response) : (s.respond link r).genCounter = s.genCounter := by cases link <;> rfl
@[simp] theorem State.respond_runs (s : State) (link : Link) (r : Response) : (s.respond link r).runs = s.runs := by cases link <;> rfl
@[simp] theorem State.respond_paths (s : State) (link : Link) (r : Response) : (s.respond link r).paths = s.paths := by cases link <;> rfl
@[simp] theorem State.respond_jamTimers (s : State) (link : Link) (r : Response) : (s.respond link r).jamTimers = s.jamTimers := by cases link <;> rfl
@[simp] theorem State.respond_lostTimers (s : State) (link : Link) (r : Response) : (s.respond link r).lostTimers = s.lostTimers := by cases link <;> rfl
@[simp] theorem State.respond_sessions (s : State) (link : Link) (r : Response) : (s.respond link r).sessions = s.sessions := by cases link <;> rfl
@[simp] theorem State.respond_captureQueue (s : State) (link : Link) (r : Response) : (s.respond link r).captureQueue = s.captureQueue := by cases link <;> rfl
@[simp] theorem State.respond_closingWait (s : State) (link : Link) (r : Response) : (s.respond link r).closingWait = s.closingWait := by cases link <;> rfl
@[simp] theorem State.respond_stallTimer (s : State) (link : Link) (r : Response) : (s.respond link r).stallTimer = s.stallTimer := by cases link <;> rfl
@[simp] theorem State.respond_headAge (s : State) (link : Link) (r : Response) : (s.respond link r).headAge = s.headAge := by cases link <;> rfl
@[simp] theorem State.respond_referrals (s : State) (link : Link) (r : Response) : (s.respond link r).referrals = s.referrals := by cases link <;> rfl
@[simp] theorem State.respond_referralNextId (s : State) (link : Link) (r : Response) : (s.respond link r).referralNextId = s.referralNextId := by cases link <;> rfl
@[simp] theorem State.respond_log (s : State) (link : Link) (r : Response) : (s.respond link r).log = s.log := by cases link <;> rfl
@[simp] theorem State.respond_logNext (s : State) (link : Link) (r : Response) : (s.respond link r).logNext = s.logNext := by cases link <;> rfl
@[simp] theorem State.respond_reserved (s : State) (link : Link) (r : Response) : (s.respond link r).reserved = s.reserved := by cases link <;> rfl
@[simp] theorem State.respond_meters (s : State) (link : Link) (r : Response) : (s.respond link r).meters = s.meters := by cases link <;> rfl
@[simp] theorem State.respond_stations (s : State) (link : Link) (r : Response) : (s.respond link r).stations = s.stations := by cases link <;> rfl
@[simp] theorem State.respond_latched (s : State) (link : Link) (r : Response) : (s.respond link r).latched = s.latched := by cases link <;> rfl
@[simp] theorem State.respond_params (s : State) (link : Link) (r : Response) : (s.respond link r).params = s.params := by cases link <;> rfl
@[simp] theorem State.respond_resetCause (s : State) (link : Link) (r : Response) : (s.respond link r).resetCause = s.resetCause := by cases link <;> rfl
@[simp] theorem State.respond_uptime (s : State) (link : Link) (r : Response) : (s.respond link r).uptime = s.uptime := by cases link <;> rfl
@[simp] theorem State.respond_pending (s : State) (link : Link) (r : Response) : (s.respond link r).pending = s.pending := by cases link <;> rfl

end Sys2Proof.Machine
end

