-- ==== Sys2Proof/Laws/Ports.lean ====
section
/-! SUPPORT. What a port does with a frame (R156, R164): the fields it leaves, and the four ways a request's frame ends. -/

namespace Sys2Proof.Machine

@[simp] theorem State.validFrame_house (s : State) (link : Link) : (s.validFrame link).house = s.house := by
  cases link <;> rfl
@[simp] theorem State.validFrame_cards (s : State) (link : Link) : (s.validFrame link).cards = s.cards := by
  cases link <;> rfl
@[simp] theorem State.validFrame_mirrors (s : State) (link : Link) : (s.validFrame link).mirrors = s.mirrors := by
  cases link <;> rfl
@[simp] theorem State.validFrame_bankA (s : State) (link : Link) : (s.validFrame link).bankA = s.bankA := by
  cases link <;> rfl
@[simp] theorem State.validFrame_bankB (s : State) (link : Link) : (s.validFrame link).bankB = s.bankB := by
  cases link <;> rfl
@[simp] theorem State.validFrame_active (s : State) (link : Link) : (s.validFrame link).active = s.active := by
  cases link <;> rfl
@[simp] theorem State.validFrame_genCounter (s : State) (link : Link) : (s.validFrame link).genCounter = s.genCounter := by
  cases link <;> rfl
@[simp] theorem State.validFrame_runs (s : State) (link : Link) : (s.validFrame link).runs = s.runs := by
  cases link <;> rfl
@[simp] theorem State.validFrame_paths (s : State) (link : Link) : (s.validFrame link).paths = s.paths := by
  cases link <;> rfl
@[simp] theorem State.validFrame_jamTimers (s : State) (link : Link) : (s.validFrame link).jamTimers = s.jamTimers := by
  cases link <;> rfl
@[simp] theorem State.validFrame_sessions (s : State) (link : Link) : (s.validFrame link).sessions = s.sessions := by
  cases link <;> rfl
@[simp] theorem State.validFrame_captureQueue (s : State) (link : Link) : (s.validFrame link).captureQueue = s.captureQueue := by
  cases link <;> rfl
@[simp] theorem State.validFrame_closingWait (s : State) (link : Link) : (s.validFrame link).closingWait = s.closingWait := by
  cases link <;> rfl
@[simp] theorem State.validFrame_stallTimer (s : State) (link : Link) : (s.validFrame link).stallTimer = s.stallTimer := by
  cases link <;> rfl
@[simp] theorem State.validFrame_headAge (s : State) (link : Link) : (s.validFrame link).headAge = s.headAge := by
  cases link <;> rfl
@[simp] theorem State.validFrame_referrals (s : State) (link : Link) : (s.validFrame link).referrals = s.referrals := by
  cases link <;> rfl
@[simp] theorem State.validFrame_referralNextId (s : State) (link : Link) : (s.validFrame link).referralNextId = s.referralNextId := by
  cases link <;> rfl
@[simp] theorem State.validFrame_log (s : State) (link : Link) : (s.validFrame link).log = s.log := by
  cases link <;> rfl
@[simp] theorem State.validFrame_logNext (s : State) (link : Link) : (s.validFrame link).logNext = s.logNext := by
  cases link <;> rfl
@[simp] theorem State.validFrame_reserved (s : State) (link : Link) : (s.validFrame link).reserved = s.reserved := by
  cases link <;> rfl
@[simp] theorem State.validFrame_meters (s : State) (link : Link) : (s.validFrame link).meters = s.meters := by
  cases link <;> rfl
@[simp] theorem State.validFrame_params (s : State) (link : Link) : (s.validFrame link).params = s.params := by
  cases link <;> rfl
@[simp] theorem State.validFrame_resetCause (s : State) (link : Link) : (s.validFrame link).resetCause = s.resetCause := by
  cases link <;> rfl
@[simp] theorem State.validFrame_uptime (s : State) (link : Link) : (s.validFrame link).uptime = s.uptime := by
  cases link <;> rfl
@[simp] theorem State.validFrame_pending (s : State) (link : Link) : (s.validFrame link).pending = s.pending := by
  cases link <;> rfl

@[simp] theorem State.handOn_house (s : State) (link : Link) : (s.handOn link).house = s.house := by
  simp [State.handOn]
@[simp] theorem State.handOn_cards (s : State) (link : Link) : (s.handOn link).cards = s.cards := by
  simp [State.handOn]
@[simp] theorem State.handOn_mirrors (s : State) (link : Link) : (s.handOn link).mirrors = s.mirrors := by
  simp [State.handOn]
@[simp] theorem State.handOn_bankA (s : State) (link : Link) : (s.handOn link).bankA = s.bankA := by
  simp [State.handOn]
@[simp] theorem State.handOn_bankB (s : State) (link : Link) : (s.handOn link).bankB = s.bankB := by
  simp [State.handOn]
@[simp] theorem State.handOn_active (s : State) (link : Link) : (s.handOn link).active = s.active := by
  simp [State.handOn]
@[simp] theorem State.handOn_genCounter (s : State) (link : Link) : (s.handOn link).genCounter = s.genCounter := by
  simp [State.handOn]
@[simp] theorem State.handOn_runs (s : State) (link : Link) : (s.handOn link).runs = s.runs := by
  simp [State.handOn]
@[simp] theorem State.handOn_paths (s : State) (link : Link) : (s.handOn link).paths = s.paths := by
  simp [State.handOn]
@[simp] theorem State.handOn_jamTimers (s : State) (link : Link) : (s.handOn link).jamTimers = s.jamTimers := by
  simp [State.handOn]
@[simp] theorem State.handOn_sessions (s : State) (link : Link) : (s.handOn link).sessions = s.sessions := by
  simp [State.handOn]
@[simp] theorem State.handOn_captureQueue (s : State) (link : Link) : (s.handOn link).captureQueue = s.captureQueue := by
  simp [State.handOn]
@[simp] theorem State.handOn_closingWait (s : State) (link : Link) : (s.handOn link).closingWait = s.closingWait := by
  simp [State.handOn]
@[simp] theorem State.handOn_stallTimer (s : State) (link : Link) : (s.handOn link).stallTimer = s.stallTimer := by
  simp [State.handOn]
@[simp] theorem State.handOn_headAge (s : State) (link : Link) : (s.handOn link).headAge = s.headAge := by
  simp [State.handOn]
@[simp] theorem State.handOn_referrals (s : State) (link : Link) : (s.handOn link).referrals = s.referrals := by
  simp [State.handOn]
@[simp] theorem State.handOn_referralNextId (s : State) (link : Link) : (s.handOn link).referralNextId = s.referralNextId := by
  simp [State.handOn]
@[simp] theorem State.handOn_log (s : State) (link : Link) : (s.handOn link).log = s.log := by
  simp [State.handOn]
@[simp] theorem State.handOn_logNext (s : State) (link : Link) : (s.handOn link).logNext = s.logNext := by
  simp [State.handOn]
@[simp] theorem State.handOn_reserved (s : State) (link : Link) : (s.handOn link).reserved = s.reserved := by
  simp [State.handOn]
@[simp] theorem State.handOn_meters (s : State) (link : Link) : (s.handOn link).meters = s.meters := by
  simp [State.handOn]
@[simp] theorem State.handOn_params (s : State) (link : Link) : (s.handOn link).params = s.params := by
  simp [State.handOn]
@[simp] theorem State.handOn_resetCause (s : State) (link : Link) : (s.handOn link).resetCause = s.resetCause := by
  simp [State.handOn]
@[simp] theorem State.handOn_uptime (s : State) (link : Link) : (s.handOn link).uptime = s.uptime := by
  simp [State.handOn]
@[simp] theorem State.handOn_pending (s : State) (link : Link) : (s.handOn link).pending = s.pending := by
  simp [State.handOn]

@[simp] theorem State.refuseAccess_house (s : State) (link : Link) (code : Byte) : (s.refuseAccess link code).house = s.house := by
  simp [State.refuseAccess]
@[simp] theorem State.refuseAccess_cards (s : State) (link : Link) (code : Byte) : (s.refuseAccess link code).cards = s.cards := by
  simp [State.refuseAccess]
@[simp] theorem State.refuseAccess_mirrors (s : State) (link : Link) (code : Byte) : (s.refuseAccess link code).mirrors = s.mirrors := by
  simp [State.refuseAccess]
@[simp] theorem State.refuseAccess_bankA (s : State) (link : Link) (code : Byte) : (s.refuseAccess link code).bankA = s.bankA := by
  simp [State.refuseAccess]
@[simp] theorem State.refuseAccess_bankB (s : State) (link : Link) (code : Byte) : (s.refuseAccess link code).bankB = s.bankB := by
  simp [State.refuseAccess]
@[simp] theorem State.refuseAccess_active (s : State) (link : Link) (code : Byte) : (s.refuseAccess link code).active = s.active := by
  simp [State.refuseAccess]
@[simp] theorem State.refuseAccess_genCounter (s : State) (link : Link) (code : Byte) : (s.refuseAccess link code).genCounter = s.genCounter := by
  simp [State.refuseAccess]
@[simp] theorem State.refuseAccess_runs (s : State) (link : Link) (code : Byte) : (s.refuseAccess link code).runs = s.runs := by
  simp [State.refuseAccess]
@[simp] theorem State.refuseAccess_paths (s : State) (link : Link) (code : Byte) : (s.refuseAccess link code).paths = s.paths := by
  simp [State.refuseAccess]
@[simp] theorem State.refuseAccess_jamTimers (s : State) (link : Link) (code : Byte) : (s.refuseAccess link code).jamTimers = s.jamTimers := by
  simp [State.refuseAccess]
@[simp] theorem State.refuseAccess_lostTimers (s : State) (link : Link) (code : Byte) : (s.refuseAccess link code).lostTimers = s.lostTimers := by
  simp [State.refuseAccess]
@[simp] theorem State.refuseAccess_sessions (s : State) (link : Link) (code : Byte) : (s.refuseAccess link code).sessions = s.sessions := by
  simp [State.refuseAccess]
@[simp] theorem State.refuseAccess_captureQueue (s : State) (link : Link) (code : Byte) : (s.refuseAccess link code).captureQueue = s.captureQueue := by
  simp [State.refuseAccess]
@[simp] theorem State.refuseAccess_closingWait (s : State) (link : Link) (code : Byte) : (s.refuseAccess link code).closingWait = s.closingWait := by
  simp [State.refuseAccess]
@[simp] theorem State.refuseAccess_stallTimer (s : State) (link : Link) (code : Byte) : (s.refuseAccess link code).stallTimer = s.stallTimer := by
  simp [State.refuseAccess]
@[simp] theorem State.refuseAccess_headAge (s : State) (link : Link) (code : Byte) : (s.refuseAccess link code).headAge = s.headAge := by
  simp [State.refuseAccess]
@[simp] theorem State.refuseAccess_referrals (s : State) (link : Link) (code : Byte) : (s.refuseAccess link code).referrals = s.referrals := by
  simp [State.refuseAccess]
@[simp] theorem State.refuseAccess_referralNextId (s : State) (link : Link) (code : Byte) : (s.refuseAccess link code).referralNextId = s.referralNextId := by
  simp [State.refuseAccess]
@[simp] theorem State.refuseAccess_log (s : State) (link : Link) (code : Byte) : (s.refuseAccess link code).log = s.log := by
  simp [State.refuseAccess]
@[simp] theorem State.refuseAccess_logNext (s : State) (link : Link) (code : Byte) : (s.refuseAccess link code).logNext = s.logNext := by
  simp [State.refuseAccess]
@[simp] theorem State.refuseAccess_reserved (s : State) (link : Link) (code : Byte) : (s.refuseAccess link code).reserved = s.reserved := by
  simp [State.refuseAccess]
@[simp] theorem State.refuseAccess_meters (s : State) (link : Link) (code : Byte) : (s.refuseAccess link code).meters = s.meters := by
  simp [State.refuseAccess]
@[simp] theorem State.refuseAccess_stations (s : State) (link : Link) (code : Byte) : (s.refuseAccess link code).stations = s.stations := by
  simp [State.refuseAccess]
@[simp] theorem State.refuseAccess_params (s : State) (link : Link) (code : Byte) : (s.refuseAccess link code).params = s.params := by
  simp [State.refuseAccess]
@[simp] theorem State.refuseAccess_resetCause (s : State) (link : Link) (code : Byte) : (s.refuseAccess link code).resetCause = s.resetCause := by
  simp [State.refuseAccess]
@[simp] theorem State.refuseAccess_uptime (s : State) (link : Link) (code : Byte) : (s.refuseAccess link code).uptime = s.uptime := by
  simp [State.refuseAccess]
@[simp] theorem State.refuseAccess_pending (s : State) (link : Link) (code : Byte) : (s.refuseAccess link code).pending = s.pending := by
  simp [State.refuseAccess]

@[simp] theorem State.refuseFormat_house (s : State) (link : Link) : (s.refuseFormat link).house = s.house := by
  simp [State.refuseFormat]
@[simp] theorem State.refuseFormat_cards (s : State) (link : Link) : (s.refuseFormat link).cards = s.cards := by
  simp [State.refuseFormat]
@[simp] theorem State.refuseFormat_mirrors (s : State) (link : Link) : (s.refuseFormat link).mirrors = s.mirrors := by
  simp [State.refuseFormat]
@[simp] theorem State.refuseFormat_bankA (s : State) (link : Link) : (s.refuseFormat link).bankA = s.bankA := by
  simp [State.refuseFormat]
@[simp] theorem State.refuseFormat_bankB (s : State) (link : Link) : (s.refuseFormat link).bankB = s.bankB := by
  simp [State.refuseFormat]
@[simp] theorem State.refuseFormat_active (s : State) (link : Link) : (s.refuseFormat link).active = s.active := by
  simp [State.refuseFormat]
@[simp] theorem State.refuseFormat_genCounter (s : State) (link : Link) : (s.refuseFormat link).genCounter = s.genCounter := by
  simp [State.refuseFormat]
@[simp] theorem State.refuseFormat_runs (s : State) (link : Link) : (s.refuseFormat link).runs = s.runs := by
  simp [State.refuseFormat]
@[simp] theorem State.refuseFormat_paths (s : State) (link : Link) : (s.refuseFormat link).paths = s.paths := by
  simp [State.refuseFormat]
@[simp] theorem State.refuseFormat_jamTimers (s : State) (link : Link) : (s.refuseFormat link).jamTimers = s.jamTimers := by
  simp [State.refuseFormat]
@[simp] theorem State.refuseFormat_lostTimers (s : State) (link : Link) : (s.refuseFormat link).lostTimers = s.lostTimers := by
  simp [State.refuseFormat]
@[simp] theorem State.refuseFormat_sessions (s : State) (link : Link) : (s.refuseFormat link).sessions = s.sessions := by
  simp [State.refuseFormat]
@[simp] theorem State.refuseFormat_captureQueue (s : State) (link : Link) : (s.refuseFormat link).captureQueue = s.captureQueue := by
  simp [State.refuseFormat]
@[simp] theorem State.refuseFormat_closingWait (s : State) (link : Link) : (s.refuseFormat link).closingWait = s.closingWait := by
  simp [State.refuseFormat]
@[simp] theorem State.refuseFormat_stallTimer (s : State) (link : Link) : (s.refuseFormat link).stallTimer = s.stallTimer := by
  simp [State.refuseFormat]
@[simp] theorem State.refuseFormat_headAge (s : State) (link : Link) : (s.refuseFormat link).headAge = s.headAge := by
  simp [State.refuseFormat]
@[simp] theorem State.refuseFormat_referrals (s : State) (link : Link) : (s.refuseFormat link).referrals = s.referrals := by
  simp [State.refuseFormat]
@[simp] theorem State.refuseFormat_referralNextId (s : State) (link : Link) : (s.refuseFormat link).referralNextId = s.referralNextId := by
  simp [State.refuseFormat]
@[simp] theorem State.refuseFormat_log (s : State) (link : Link) : (s.refuseFormat link).log = s.log := by
  simp [State.refuseFormat]
@[simp] theorem State.refuseFormat_logNext (s : State) (link : Link) : (s.refuseFormat link).logNext = s.logNext := by
  simp [State.refuseFormat]
@[simp] theorem State.refuseFormat_reserved (s : State) (link : Link) : (s.refuseFormat link).reserved = s.reserved := by
  simp [State.refuseFormat]
@[simp] theorem State.refuseFormat_meters (s : State) (link : Link) : (s.refuseFormat link).meters = s.meters := by
  simp [State.refuseFormat]
@[simp] theorem State.refuseFormat_stations (s : State) (link : Link) : (s.refuseFormat link).stations = s.stations := by
  simp [State.refuseFormat]
@[simp] theorem State.refuseFormat_latched (s : State) (link : Link) : (s.refuseFormat link).latched = s.latched := by
  simp [State.refuseFormat]
@[simp] theorem State.refuseFormat_params (s : State) (link : Link) : (s.refuseFormat link).params = s.params := by
  simp [State.refuseFormat]
@[simp] theorem State.refuseFormat_resetCause (s : State) (link : Link) : (s.refuseFormat link).resetCause = s.resetCause := by
  simp [State.refuseFormat]
@[simp] theorem State.refuseFormat_uptime (s : State) (link : Link) : (s.refuseFormat link).uptime = s.uptime := by
  simp [State.refuseFormat]
@[simp] theorem State.refuseFormat_pending (s : State) (link : Link) : (s.refuseFormat link).pending = s.pending := by
  simp [State.refuseFormat]

@[simp] theorem State.noteDiscard_house (s : State) (link : Link) : (s.noteDiscard link).house = s.house := by
  simp [State.noteDiscard]
@[simp] theorem State.noteDiscard_cards (s : State) (link : Link) : (s.noteDiscard link).cards = s.cards := by
  simp [State.noteDiscard]
@[simp] theorem State.noteDiscard_mirrors (s : State) (link : Link) : (s.noteDiscard link).mirrors = s.mirrors := by
  simp [State.noteDiscard]
@[simp] theorem State.noteDiscard_bankA (s : State) (link : Link) : (s.noteDiscard link).bankA = s.bankA := by
  simp [State.noteDiscard]
@[simp] theorem State.noteDiscard_bankB (s : State) (link : Link) : (s.noteDiscard link).bankB = s.bankB := by
  simp [State.noteDiscard]
@[simp] theorem State.noteDiscard_active (s : State) (link : Link) : (s.noteDiscard link).active = s.active := by
  simp [State.noteDiscard]
@[simp] theorem State.noteDiscard_genCounter (s : State) (link : Link) : (s.noteDiscard link).genCounter = s.genCounter := by
  simp [State.noteDiscard]
@[simp] theorem State.noteDiscard_runs (s : State) (link : Link) : (s.noteDiscard link).runs = s.runs := by
  simp [State.noteDiscard]
@[simp] theorem State.noteDiscard_paths (s : State) (link : Link) : (s.noteDiscard link).paths = s.paths := by
  simp [State.noteDiscard]
@[simp] theorem State.noteDiscard_jamTimers (s : State) (link : Link) : (s.noteDiscard link).jamTimers = s.jamTimers := by
  simp [State.noteDiscard]
@[simp] theorem State.noteDiscard_lostTimers (s : State) (link : Link) : (s.noteDiscard link).lostTimers = s.lostTimers := by
  simp [State.noteDiscard]
@[simp] theorem State.noteDiscard_sessions (s : State) (link : Link) : (s.noteDiscard link).sessions = s.sessions := by
  simp [State.noteDiscard]
@[simp] theorem State.noteDiscard_captureQueue (s : State) (link : Link) : (s.noteDiscard link).captureQueue = s.captureQueue := by
  simp [State.noteDiscard]
@[simp] theorem State.noteDiscard_closingWait (s : State) (link : Link) : (s.noteDiscard link).closingWait = s.closingWait := by
  simp [State.noteDiscard]
@[simp] theorem State.noteDiscard_stallTimer (s : State) (link : Link) : (s.noteDiscard link).stallTimer = s.stallTimer := by
  simp [State.noteDiscard]
@[simp] theorem State.noteDiscard_headAge (s : State) (link : Link) : (s.noteDiscard link).headAge = s.headAge := by
  simp [State.noteDiscard]
@[simp] theorem State.noteDiscard_referrals (s : State) (link : Link) : (s.noteDiscard link).referrals = s.referrals := by
  simp [State.noteDiscard]
@[simp] theorem State.noteDiscard_referralNextId (s : State) (link : Link) : (s.noteDiscard link).referralNextId = s.referralNextId := by
  simp [State.noteDiscard]
@[simp] theorem State.noteDiscard_log (s : State) (link : Link) : (s.noteDiscard link).log = s.log := by
  simp [State.noteDiscard]
@[simp] theorem State.noteDiscard_logNext (s : State) (link : Link) : (s.noteDiscard link).logNext = s.logNext := by
  simp [State.noteDiscard]
@[simp] theorem State.noteDiscard_reserved (s : State) (link : Link) : (s.noteDiscard link).reserved = s.reserved := by
  simp [State.noteDiscard]
@[simp] theorem State.noteDiscard_meters (s : State) (link : Link) : (s.noteDiscard link).meters = s.meters := by
  simp [State.noteDiscard]
@[simp] theorem State.noteDiscard_stations (s : State) (link : Link) : (s.noteDiscard link).stations = s.stations := by
  simp [State.noteDiscard]
@[simp] theorem State.noteDiscard_params (s : State) (link : Link) : (s.noteDiscard link).params = s.params := by
  simp [State.noteDiscard]
@[simp] theorem State.noteDiscard_resetCause (s : State) (link : Link) : (s.noteDiscard link).resetCause = s.resetCause := by
  simp [State.noteDiscard]
@[simp] theorem State.noteDiscard_uptime (s : State) (link : Link) : (s.noteDiscard link).uptime = s.uptime := by
  simp [State.noteDiscard]
@[simp] theorem State.noteDiscard_pending (s : State) (link : Link) : (s.noteDiscard link).pending = s.pending := by
  simp [State.noteDiscard]

@[simp] theorem State.clearLink_house (s : State) (link : Link) : (s.clearLink link).house = s.house := by
  simp [State.clearLink]
@[simp] theorem State.clearLink_cards (s : State) (link : Link) : (s.clearLink link).cards = s.cards := by
  simp [State.clearLink]
@[simp] theorem State.clearLink_mirrors (s : State) (link : Link) : (s.clearLink link).mirrors = s.mirrors := by
  simp [State.clearLink]
@[simp] theorem State.clearLink_bankA (s : State) (link : Link) : (s.clearLink link).bankA = s.bankA := by
  simp [State.clearLink]
@[simp] theorem State.clearLink_bankB (s : State) (link : Link) : (s.clearLink link).bankB = s.bankB := by
  simp [State.clearLink]
@[simp] theorem State.clearLink_active (s : State) (link : Link) : (s.clearLink link).active = s.active := by
  simp [State.clearLink]
@[simp] theorem State.clearLink_genCounter (s : State) (link : Link) : (s.clearLink link).genCounter = s.genCounter := by
  simp [State.clearLink]
@[simp] theorem State.clearLink_runs (s : State) (link : Link) : (s.clearLink link).runs = s.runs := by
  simp [State.clearLink]
@[simp] theorem State.clearLink_paths (s : State) (link : Link) : (s.clearLink link).paths = s.paths := by
  simp [State.clearLink]
@[simp] theorem State.clearLink_jamTimers (s : State) (link : Link) : (s.clearLink link).jamTimers = s.jamTimers := by
  simp [State.clearLink]
@[simp] theorem State.clearLink_lostTimers (s : State) (link : Link) : (s.clearLink link).lostTimers = s.lostTimers := by
  simp [State.clearLink]
@[simp] theorem State.clearLink_sessions (s : State) (link : Link) : (s.clearLink link).sessions = s.sessions := by
  simp [State.clearLink]
@[simp] theorem State.clearLink_captureQueue (s : State) (link : Link) : (s.clearLink link).captureQueue = s.captureQueue := by
  simp [State.clearLink]
@[simp] theorem State.clearLink_closingWait (s : State) (link : Link) : (s.clearLink link).closingWait = s.closingWait := by
  simp [State.clearLink]
@[simp] theorem State.clearLink_stallTimer (s : State) (link : Link) : (s.clearLink link).stallTimer = s.stallTimer := by
  simp [State.clearLink]
@[simp] theorem State.clearLink_headAge (s : State) (link : Link) : (s.clearLink link).headAge = s.headAge := by
  simp [State.clearLink]
@[simp] theorem State.clearLink_referrals (s : State) (link : Link) : (s.clearLink link).referrals = s.referrals := by
  simp [State.clearLink]
@[simp] theorem State.clearLink_referralNextId (s : State) (link : Link) : (s.clearLink link).referralNextId = s.referralNextId := by
  simp [State.clearLink]
@[simp] theorem State.clearLink_log (s : State) (link : Link) : (s.clearLink link).log = s.log := by
  simp [State.clearLink]
@[simp] theorem State.clearLink_logNext (s : State) (link : Link) : (s.clearLink link).logNext = s.logNext := by
  simp [State.clearLink]
@[simp] theorem State.clearLink_reserved (s : State) (link : Link) : (s.clearLink link).reserved = s.reserved := by
  simp [State.clearLink]
@[simp] theorem State.clearLink_meters (s : State) (link : Link) : (s.clearLink link).meters = s.meters := by
  simp [State.clearLink]
@[simp] theorem State.clearLink_stations (s : State) (link : Link) : (s.clearLink link).stations = s.stations := by
  simp [State.clearLink]
@[simp] theorem State.clearLink_latched (s : State) (link : Link) : (s.clearLink link).latched = s.latched := by
  simp [State.clearLink]
@[simp] theorem State.clearLink_params (s : State) (link : Link) : (s.clearLink link).params = s.params := by
  simp [State.clearLink]
@[simp] theorem State.clearLink_resetCause (s : State) (link : Link) : (s.clearLink link).resetCause = s.resetCause := by
  simp [State.clearLink]
@[simp] theorem State.clearLink_uptime (s : State) (link : Link) : (s.clearLink link).uptime = s.uptime := by
  simp [State.clearLink]
@[simp] theorem State.clearLink_pending (s : State) (link : Link) : (s.clearLink link).pending = s.pending := by
  simp [State.clearLink]

/-- The station records after a frame on a station's link (R164). -/
theorem State.validFrame_stations_c (s : State) (n : Station) :
    (s.validFrame (.c n)).stations =
      s.stations.set n { s.stations[n] with presence := .present, silence := s.silenceAfterFrame s.stations[n] } := rfl

@[simp] theorem State.validFrame_stations_p (s : State) : (s.validFrame .p).stations = s.stations := rfl
@[simp] theorem State.validFrame_stations_m (s : State) : (s.validFrame .m).stations = s.stations := rfl

/-- A frame changes neither a station's state nor its prior state nor its flags. -/
theorem State.validFrame_station (s : State) (link : Link) (st : Station) :
    ((s.validFrame link).stations[st]).state = s.stations[st].state ∧
    ((s.validFrame link).stations[st]).prior = s.stations[st].prior ∧
    ((s.validFrame link).stations[st]).flags = s.stations[st].flags := by
  cases link with
  | c n =>
    rw [State.validFrame_stations_c]
    by_cases h : n = st
    · subst h; simp
    · have : (n : Nat) ≠ st := fun e => h (Fin.ext e)
      simp [this]
  | p => simp
  | m => simp

@[simp] theorem State.handOn_station_state (s : State) (link : Link) (st : Station) :
    ((s.handOn link).stations[st]).state = s.stations[st].state := by
  simpa [State.handOn] using (s.validFrame_station link st).1

@[simp] theorem State.handOn_station_flags (s : State) (link : Link) (st : Station) :
    ((s.handOn link).stations[st]).flags = s.stations[st].flags := by
  simpa [State.handOn] using (s.validFrame_station link st).2.2

@[simp] theorem State.handOn_job (s : State) (link : Link) (st : Station) : (s.handOn link).job st = s.job st := by
  simp [State.job]

/-- The four ways a request's frame ends at its port (R153, R156). -/
theorem State.request_cases {α : Type} (s : State) (link : Link) (code : Byte) (kind : LinkKind) (body : Body α)
    (take : α → State → Taken) :
    s.request link code kind body take = s ∨
    s.request link code kind body take = (s.validFrame link).refuseAccess link code ∨
    s.request link code kind body take = (s.validFrame link).refuseFormat link ∨
    ∃ fields, body = .of fields ∧ link.kind = kind ∧
      s.request link code kind body take = ((take fields (s.handOn link)).1.respond link (take fields (s.handOn link)).2) := by
  unfold State.request
  split
  · exact Or.inl rfl
  · split
    · exact Or.inr (Or.inl rfl)
    · rename_i hk
      cases body with
      | wrongLength => exact Or.inr (Or.inr (Or.inl rfl))
      | of f => exact Or.inr (Or.inr (Or.inr ⟨f, rfl, Decidable.of_not_not hk, rfl⟩))

/-- A property of states holds after a request's frame if the port keeps it and the owning block keeps it. -/
theorem State.request_keeps {α : Type} {P : State → Prop} {s : State} {link : Link} {code : Byte} {kind : LinkKind}
    {body : Body α} {take : α → State → Taken}
    (frame : ∀ t, P t → P (t.validFrame link)) (access : ∀ t, P t → P (t.refuseAccess link code))
    (format : ∀ t, P t → P (t.refuseFormat link)) (counted : ∀ t, P t → P (t.countAccepted link))
    (taken : ∀ f t, body = .of f → P t → P (take f t).1)
    (answered : ∀ t r, P t → P (t.respond link r)) (h : P s) : P (s.request link code kind body take) := by
  rcases s.request_cases link code kind body take with e | e | e | ⟨f, hb, _, e⟩ <;> rw [e]
  · exact h
  · exact access _ (frame _ h)
  · exact format _ (frame _ h)
  · exact answered _ _ (taken _ _ hb (counted _ (frame _ h)))

/-- A request taken by its block: on its own link kind, the receiver not in SKIP, the body of a right length (R156). -/
theorem State.request_taken {α : Type} {s : State} {link : Link} {code : Byte} {kind : LinkKind}
    {take : α → State → Taken} {fields : α} (heard : s.deaf link = false) (hk : link.kind = kind) :
    s.request link code kind (.of fields) take =
      (take fields (s.handOn link)).1.respond link (take fields (s.handOn link)).2 := by
  simp [State.request, heard, hk, Taken.reply]

/-- A station that is ENABLED or DRAINING passes its requests on (R160). -/
theorem State.gate_pass {s : State} {st : Station} {take : State → Taken}
    (h : s.stations[st].state = .enabled ∨ s.stations[st].state = .draining) : s.gate st take = take s := by
  unfold State.gate
  rcases h with h | h <;> rw [h]

/-- What passes the station-state test is a refusal that changes nothing, or what the block takes (R160). -/
theorem State.gate_cases (s : State) (st : Station) (take : State → Taken) :
    (∃ code, s.gate st take = (s, .refuse code)) ∨ s.gate st take = take s := by
  unfold State.gate State.refuse
  cases s.stations[st].state with
  | off => exact Or.inl ⟨_, rfl⟩
  | held => exact Or.inl ⟨_, rfl⟩
  | enabled => exact Or.inr rfl
  | draining => exact Or.inr rfl

/-- What holds of a state and of what the block takes holds past the station-state test. -/
theorem State.gate_keeps {P : State → Prop} {s : State} {st : Station} {take : State → Taken} (h : P s) (ht : P (take s).1) :
    P (s.gate st take).1 := by
  rcases s.gate_cases st take with ⟨_, e⟩ | e <;> rw [e]
  · exact h
  · exact ht

end Sys2Proof.Machine
end

