-- ==== Sys2Proof/Laws/Log.lean ====
section
/-! SUPPORT. How the shared operations move the counts of the log's law (R136, R137): the open runs, the sessions not NONE, the
occupied count and the reserved count. -/

namespace Sys2Proof.Machine

/-! ### Counting over the eight stations -/

/-- A count after one entry is replaced, in a form without subtraction. -/
theorem countP_set_balance {α : Type} (v : Vector α 8) (st : Station) (x : α) (p : α → Bool) :
    (v.set st x).toList.countP p + (if p v[st] then 1 else 0) = v.toList.countP p + (if p x then 1 else 0) := by
  have hlen : (st : Nat) < v.toList.length := by simp
  have h := List.countP_set (p := p) (l := v.toList) (a := x) hlen
  have e : (v.set st x).toList = v.toList.set st x := by simp [Vector.toList_set]
  have eg : v.toList[(st : Nat)] = v[st] := by simp
  rw [e, h, eg]
  by_cases hp : p v[st] = true
  · have hmem : v[st] ∈ v.toList := by rw [← eg]; exact List.getElem_mem hlen
    have : 0 < v.toList.countP p := List.countP_pos_iff.mpr ⟨_, hmem, hp⟩
    simp only [hp, if_true]
    omega
  · simp only [hp, if_false, Bool.false_eq_true]
    omega

/-- Replacing an entry by one of the same standing keeps a count. -/
theorem countP_set_same {α : Type} (v : Vector α 8) (st : Station) (x : α) (p : α → Bool) (h : p x = p v[st]) :
    (v.set st x).toList.countP p = v.toList.countP p := by
  have := countP_set_balance v st x p
  rw [h] at this
  omega

/-- Replacing an entry that counts by one that does not lowers the count by one. -/
theorem countP_set_down {α : Type} (v : Vector α 8) (st : Station) (x : α) (p : α → Bool) (h : p v[st] = true) (hx : p x = false) :
    (v.set st x).toList.countP p + 1 = v.toList.countP p := by
  have := countP_set_balance v st x p
  simp only [h, hx, if_true, if_false, Bool.false_eq_true] at this
  omega

/-- Replacing an entry that does not count by one that does raises the count by one. -/
theorem countP_set_up {α : Type} (v : Vector α 8) (st : Station) (x : α) (p : α → Bool) (h : p v[st] = false) (hx : p x = true) :
    (v.set st x).toList.countP p = v.toList.countP p + 1 := by
  have := countP_set_balance v st x p
  simp only [h, hx, if_true, if_false, Bool.false_eq_true] at this
  omega

/-! ### The law depends on four fields -/

/-- The law of the log depends on which runs are open, which sessions are not NONE, the log's length and the reserved count. -/
theorem State.LogLaw.of_counts {s t : State} (h : s.LogLaw) (hr : t.openRuns = s.openRuns) (hs : t.openSessions = s.openSessions)
    (hl : t.log.length = s.log.length) (hv : t.reserved = s.reserved) : t.LogLaw := by
  unfold State.LogLaw at *
  omega

/-- Two states alike in runs, sessions, log and reserved count stand under the law alike. -/
theorem State.LogLaw.of_same {s t : State} (h : s.LogLaw) (hr : t.runs = s.runs) (hs : t.sessions = s.sessions)
    (hl : t.log = s.log) (hv : t.reserved = s.reserved) : t.LogLaw :=
  h.of_counts (by simp [State.openRuns, hr]) (by simp [State.openSessions, hs]) (by rw [hl]) hv

/-- The law after an admitted append (R137). -/
theorem State.LogLaw.append {s t : State} (h : s.LogLaw) (ha : s.admits = true) (hr : t.openRuns = s.openRuns)
    (hs : t.openSessions = s.openSessions) (hl : t.log.length = s.log.length + 1) (hv : t.reserved = s.reserved) : t.LogLaw := by
  unfold State.LogLaw at *
  have ha : s.reserved < Config.logCapacity - s.log.length := of_decide_eq_true ha
  omega

/-- The law after an admitted promise (R137). -/
theorem State.LogLaw.promise {s t : State} (h : s.LogLaw) (ha : s.admits = true)
    (hc : t.openRuns + t.openSessions = s.openRuns + s.openSessions + 1) (hl : t.log.length = s.log.length)
    (hv : t.reserved = s.reserved + 1) : t.LogLaw := by
  unfold State.LogLaw at *
  have ha : s.reserved < Config.logCapacity - s.log.length := of_decide_eq_true ha
  omega

/-- The law after a promise is given back, with a record written or without (R139). -/
theorem State.LogLaw.giveBack {s t : State} (h : s.LogLaw) (hc : t.openRuns + t.openSessions + 1 = s.openRuns + s.openSessions)
    (hl : t.log.length ≤ s.log.length + 1) (hv : t.reserved = s.reserved - 1) : t.LogLaw := by
  unfold State.LogLaw at *
  omega

/-! ### The counts after the shared operations -/

theorem State.openRuns_of_runs {s t : State} (h : t.runs = s.runs) : t.openRuns = s.openRuns := by simp [State.openRuns, h]

theorem State.openSessions_of_sessions {s t : State} (h : t.sessions = s.sessions) : t.openSessions = s.openSessions := by
  simp [State.openSessions, h]

/-- Replacing the job of an open run leaves the number of open runs. -/
theorem State.setJob_openRuns {s : State} {st : Station} {j : Job} (k : Job) (h : s.job st = some j) :
    (s.setJob st k).openRuns = s.openRuns := by
  unfold State.openRuns
  simp only [State.setJob_runs]
  refine countP_set_same _ _ _ _ ?_
  have h : s.runs[st.val].job = some j := h
  simp [h]

@[simp] theorem State.spend_openSessions (s : State) (st : Station) (k : SlotKind) (x : Nat) :
    (s.spend st k x).openSessions = s.openSessions := by
  unfold State.openSessions
  simp only [State.spend_sessions]
  split
  · refine countP_set_same _ _ _ _ ?_
    cases s.sessions[st] <;> rfl
  · rfl

@[simp] theorem State.deliver_openRuns (s : State) (st : Station) (n : Nat) : (s.deliver st n).openRuns = s.openRuns := by
  unfold State.openRuns
  simp only [State.deliver_runs]
  refine countP_set_same _ _ _ _ ?_
  cases h : s.runs[st.val].job <;> simp

@[simp] theorem State.restartIdle_openRuns (s : State) (st : Station) : (s.restartIdle st).openRuns = s.openRuns := by
  unfold State.openRuns
  simp only [State.restartIdle_runs]
  refine countP_set_same _ _ _ _ ?_
  cases h : s.runs[st.val].job <;> simp

/-! ### A close and a return (R53, R67) -/

@[simp] theorem State.closeJob_log (s : State) (st : Station) (j : Job) (reason : CloseReason) :
    (s.closeJob st j reason).log = s.log ++ [⟨s.logNext, j.closeEntry st reason (j.disputed + s.paths[st].length)⟩] := by
  simp [State.closeJob]

@[simp] theorem State.closeJob_logNext (s : State) (st : Station) (j : Job) (reason : CloseReason) :
    (s.closeJob st j reason).logNext = step16 s.logNext := by simp [State.closeJob]

@[simp] theorem State.closeJob_reserved (s : State) (st : Station) (j : Job) (reason : CloseReason) :
    (s.closeJob st j reason).reserved = s.reserved - 1 := by simp [State.closeJob]

@[simp] theorem State.closeJob_runs (s : State) (st : Station) (j : Job) (reason : CloseReason) :
    (s.closeJob st j reason).runs = s.runs.set st { s.runs[st] with job := none } := by simp [State.closeJob]

@[simp] theorem State.closeJob_paths (s : State) (st : Station) (j : Job) (reason : CloseReason) :
    (s.closeJob st j reason).paths = s.paths.set st [] := by simp [State.closeJob]

@[simp] theorem State.closeJob_referrals (s : State) (st : Station) (j : Job) (reason : CloseReason) :
    (s.closeJob st j reason).referrals = s.referrals.filter (fun r => r.station != st) := by simp [State.closeJob]

@[simp] theorem State.closeJob_params (s : State) (st : Station) (j : Job) (reason : CloseReason) :
    (s.closeJob st j reason).params = s.params := by simp [State.closeJob]

@[simp] theorem State.closeJob_pending (s : State) (st : Station) (j : Job) (reason : CloseReason) :
    (s.closeJob st j reason).pending = s.pending := by simp [State.closeJob]

@[simp] theorem State.closeJob_openSessions (s : State) (st : Station) (j : Job) (reason : CloseReason) :
    (s.closeJob st j reason).openSessions = s.openSessions := by
  have h : (s.closeJob st j reason).sessions =
      (((s.setPath st []).mapCredit j.slot j.account (Credit.closeDebit st j.finalDebit j.hold)).spend st j.slot
        j.finalDebit).sessions := by simp [State.closeJob]
  rw [State.openSessions_of_sessions h, State.spend_openSessions]
  exact State.openSessions_of_sessions (by simp)

@[simp] theorem State.returnJob_log (s : State) (st : Station) (j : Job) (o : LastOutcome) :
    (s.returnJob st j o).log = s.log := by simp [State.returnJob]

@[simp] theorem State.returnJob_logNext (s : State) (st : Station) (j : Job) (o : LastOutcome) :
    (s.returnJob st j o).logNext = s.logNext := by simp [State.returnJob]

@[simp] theorem State.returnJob_reserved (s : State) (st : Station) (j : Job) (o : LastOutcome) :
    (s.returnJob st j o).reserved = s.reserved - 1 := by simp [State.returnJob]

@[simp] theorem State.returnJob_runs (s : State) (st : Station) (j : Job) (o : LastOutcome) :
    (s.returnJob st j o).runs = s.runs.set st (Run.idle o) := by simp [State.returnJob]

@[simp] theorem State.returnJob_paths (s : State) (st : Station) (j : Job) (o : LastOutcome) :
    (s.returnJob st j o).paths = s.paths := by simp [State.returnJob]

@[simp] theorem State.returnJob_sessions (s : State) (st : Station) (j : Job) (o : LastOutcome) :
    (s.returnJob st j o).sessions = s.sessions := by simp [State.returnJob]

@[simp] theorem State.returnJob_referrals (s : State) (st : Station) (j : Job) (o : LastOutcome) :
    (s.returnJob st j o).referrals = s.referrals.filter (fun r => r.station != st) := by simp [State.returnJob]

@[simp] theorem State.returnJob_params (s : State) (st : Station) (j : Job) (o : LastOutcome) :
    (s.returnJob st j o).params = s.params := by simp [State.returnJob]

@[simp] theorem State.returnJob_pending (s : State) (st : Station) (j : Job) (o : LastOutcome) :
    (s.returnJob st j o).pending = s.pending := by simp [State.returnJob]

/-- A close lowers the number of open runs by one. -/
theorem State.closeJob_openRuns {s : State} {st : Station} {j : Job} (hj : s.job st = some j) (k : Job) (reason : CloseReason) :
    (s.closeJob st k reason).openRuns + 1 = s.openRuns := by
  unfold State.openRuns
  rw [State.closeJob_runs]
  exact countP_set_down _ _ _ _ (by have hj : s.runs[st.val].job = some j := hj; simp [hj]) rfl

/-- A return from REFERRAL lowers the number of open runs by one. -/
theorem State.returnJob_openRuns {s : State} {st : Station} {j : Job} (hj : s.job st = some j) (k : Job) (o : LastOutcome) :
    (s.returnJob st k o).openRuns + 1 = s.openRuns := by
  unfold State.openRuns
  rw [State.returnJob_runs]
  exact countP_set_down _ _ _ _ (by have hj : s.runs[st.val].job = some j := hj; simp [hj]) rfl

/-- A close keeps the law: one record more, one promise fewer (R139). -/
theorem State.LogLaw.closeJob {s : State} (h : s.LogLaw) {st : Station} {j : Job} (hj : s.job st = some j) (k : Job)
    (reason : CloseReason) : (s.closeJob st k reason).LogLaw := by
  refine h.giveBack ?_ (by simp) (by simp)
  have := State.closeJob_openRuns hj k reason
  have := State.closeJob_openSessions s st k reason
  omega

/-- A return from REFERRAL keeps the law: one promise fewer (R136). -/
theorem State.LogLaw.returnJob {s : State} (h : s.LogLaw) {st : Station} {j : Job} (hj : s.job st = some j) (k : Job)
    (o : LastOutcome) : (s.returnJob st k o).LogLaw := by
  refine h.giveBack ?_ (by simp) (by simp)
  have := State.returnJob_openRuns hj k o
  have : (s.returnJob st k o).openSessions = s.openSessions := State.openSessions_of_sessions (by simp)
  omega

end Sys2Proof.Machine
end

