-- ==== Sys2Proof/Laws/Steps.lean ====
section
/-! SUPPORT. One command as a whole: what a request's owning block does (`taken`), the ways a request's frame ends, and what a
property of states needs for every command to keep it. The provers cite these in place of unfolding fifty-nine meanings. -/

namespace Sys2Proof.Machine

/-- What a block does with a body's fields; a body of a wrong length never reaches it. -/
def Body.take {α : Type} (body : Body α) (block : α → State → Taken) (s : State) : Taken :=
  match body with
  | .of fields => block fields s
  | .wrongLength => (s, .refuse .badFormat)

theorem Body.take_keeps {P : State → Prop} {α : Type} {body : Body α} {block : α → State → Taken} {s : State} (h : P s)
    (hb : ∀ f, P (block f s).1) : P (Body.take body block s).1 := by
  cases body with
  | of f => exact hb f
  | wrongLength => exact h

/-- What the owning block does with a request whose body has a right length; every other command leaves the state. -/
def taken (i : Instr) (s : State) : Taken :=
  match i with
  | .load link body => Body.take body (takeLoad (stationOf link)) s
  | .advance link body => Body.take body (takeAdvance (stationOf link)) s
  | .query link body => Body.take body (takeQuery (stationOf link)) s
  | .endRun link body => Body.take body (takeEndRun (stationOf link)) s
  | .delivered link body => Body.take body (takeDelivered (stationOf link)) s
  | .jam link body => Body.take body (takeJam (stationOf link)) s
  | .clear link body => Body.take body (takeClear (stationOf link)) s
  | .endSession link body => Body.take body (takeEndSession (stationOf link)) s
  | .authNotice _ body => Body.take body (takeAuthNotice) s
  | .sessionQuery _ body => Body.take body (takeSessionQuery) s
  | .poll _ body => Body.take body (takePoll) s
  | .captureResult _ body => Body.take body (takeCaptureResult) s
  | .acctCreate _ body => Body.take body (takeAcctCreate) s
  | .acctUpdate _ body => Body.take body (takeAcctUpdate) s
  | .acctRead _ body => Body.take body (takeAcctRead) s
  | .acctNext _ body => Body.take body (takeAcctNext) s
  | .acctDelete _ body => Body.take body (takeAcctDelete) s
  | .priceWrite _ body => Body.take body (takePriceWrite) s
  | .priceRead _ body => Body.take body (takePriceRead) s
  | .priceSwap _ body => Body.take body (takePriceSwap) s
  | .runAbort _ body => Body.take body (takeRunAbort) s
  | .captureHead _ body => Body.take body (takeCaptureHead) s
  | .captureAbandon _ body => Body.take body (takeCaptureAbandon) s
  | .referralFetch _ body => Body.take body (takeReferralFetch) s
  | .referralList _ body => Body.take body (takeReferralList) s
  | .referralReply _ body => Body.take body (takeReferralReply) s
  | .logRead _ body => Body.take body (takeLogRead) s
  | .logRelease _ body => Body.take body (takeLogRelease) s
  | .logStatus _ body => Body.take body (takeLogStatus) s
  | .meterRead _ body => Body.take body (takeMeterRead) s
  | .linkStats _ body => Body.take body (takeLinkStats) s
  | .stationSetNone _ body => Body.take body (takeStationSetNone) s
  | .stationSetEnable _ body => Body.take body (takeAction State.enable) s
  | .stationSetDisable _ body => Body.take body (takeAction State.disable) s
  | .stationSetHold _ body => Body.take body (takeAction State.hold) s
  | .stationSetRelease _ body => Body.take body (takeAction State.release) s
  | .stationSetOff _ body => Body.take body (takeAction State.turnOff) s
  | .stationRead _ body => Body.take body (takeStationRead) s
  | .attnExchange _ body => Body.take body (takeAttnExchange) s
  | .setParam _ body => Body.take body (takeSetParam) s
  | .getParam _ body => Body.take body (takeGetParam) s
  | .identify _ body => Body.take body (takeIdentify) s
  | .teardown _ body => Body.take body (takeTeardown) s
  | .warmReset _ body => Body.take body (takeWarmReset) s
  | .invalidRequestCode _ _ => (s, .refuse .ok)
  | .frameDiscarded _ _ => (s, .refuse .ok)
  | .receiveGapTimeout _ => (s, .refuse .ok)
  | .selectReleased => (s, .refuse .ok)
  | .powerOn => (s, .refuse .ok)
  | .resetPin => (s, .refuse .ok)
  | .timebaseTick => (s, .refuse .ok)
  | .runIdleTimerExpiry _ => (s, .refuse .ok)
  | .jamTimerExpiry _ => (s, .refuse .ok)
  | .lostTimerExpiry _ => (s, .refuse .ok)
  | .silenceTimerExpiry _ => (s, .refuse .ok)
  | .cardIdleTimerExpiry _ => (s, .refuse .ok)
  | .referralTimeout _ => (s, .refuse .ok)
  | .captureStallTimingExpiry => (s, .refuse .ok)
  | .responseClockedOut => (s, .refuse .ok)

/-- What the port of a link does to a state keeps a property: a frame heard, refused ACCESS, refused BAD_FORMAT, counted, a discard
counted, a receiver moved, a byte clocked, a response formed. -/
structure PortKeeps (P : State → Prop) : Prop where
  frame : ∀ s link, P s → P (s.validFrame link)
  access : ∀ s link code, P s → P (s.refuseAccess link code)
  format : ∀ s link, P s → P (s.refuseFormat link)
  counted : ∀ s link, P s → P (s.countAccepted link)
  discard : ∀ s link, P s → P (s.noteDiscard link)
  receiver : ∀ s link r, P s → P (s.setReceiver link r)
  byte : ∀ s x, P s → P (s.clockByte x)
  answered : ∀ s link r, P s → P (s.respond link r)

theorem PortKeeps.request {P : State → Prop} (port : PortKeeps P) {α : Type} {s : State} {link : Link} {code : Byte}
    {kind : LinkKind} {body : Body α} {take : α → State → Taken} (h : P s)
    (block : ∀ f t, body = .of f → P t → P (take f t).1) : P (s.request link code kind body take) :=
  State.request_keeps (fun t => port.frame t link) (fun t => port.access t link code) (fun t => port.format t link)
    (fun t => port.counted t link) block (fun t r => port.answered t link r) h

/-- A property that the ports and the owning blocks keep is kept by every request. -/
theorem takeRequest_keeps {P : State → Prop} (port : PortKeeps P) (block : ∀ i t, P t → P (taken i t).1) (i : Instr) (s : State)
    (h : P s) : P (takeRequest i s) := by
  cases i with
  | load link body => exact port.request h (fun f t e ht => by exact block (.load link (.of f)) t ht)
  | advance link body =>
    refine port.request h (fun f t e ht => ?_)
    exact block (.advance link (.of f)) t ht
  | query link body => exact port.request h (fun f t e ht => by exact block (.query link (.of f)) t ht)
  | endRun link body => exact port.request h (fun f t e ht => by exact block (.endRun link (.of f)) t ht)
  | delivered link body => exact port.request h (fun f t e ht => by exact block (.delivered link (.of f)) t ht)
  | jam link body => exact port.request h (fun f t e ht => by exact block (.jam link (.of f)) t ht)
  | clear link body => exact port.request h (fun f t e ht => by exact block (.clear link (.of f)) t ht)
  | endSession link body => exact port.request h (fun f t e ht => by exact block (.endSession link (.of f)) t ht)
  | authNotice link body => exact port.request h (fun f t e ht => by exact block (.authNotice link (.of f)) t ht)
  | sessionQuery link body => exact port.request h (fun f t e ht => by exact block (.sessionQuery link (.of f)) t ht)
  | poll link body => exact port.request h (fun f t e ht => by exact block (.poll link (.of f)) t ht)
  | captureResult link body => exact port.request h (fun f t e ht => by exact block (.captureResult link (.of f)) t ht)
  | acctCreate link body => exact port.request h (fun f t e ht => by exact block (.acctCreate link (.of f)) t ht)
  | acctUpdate link body => exact port.request h (fun f t e ht => by exact block (.acctUpdate link (.of f)) t ht)
  | acctRead link body => exact port.request h (fun f t e ht => by exact block (.acctRead link (.of f)) t ht)
  | acctNext link body => exact port.request h (fun f t e ht => by exact block (.acctNext link (.of f)) t ht)
  | acctDelete link body => exact port.request h (fun f t e ht => by exact block (.acctDelete link (.of f)) t ht)
  | priceWrite link body =>
    refine port.request h (fun f t e ht => ?_)
    exact block (.priceWrite link (.of f)) t ht
  | priceRead link body => exact port.request h (fun f t e ht => by exact block (.priceRead link (.of f)) t ht)
  | priceSwap link body => exact port.request h (fun f t e ht => by exact block (.priceSwap link (.of f)) t ht)
  | runAbort link body => exact port.request h (fun f t e ht => by exact block (.runAbort link (.of f)) t ht)
  | captureHead link body => exact port.request h (fun f t e ht => by exact block (.captureHead link (.of f)) t ht)
  | captureAbandon link body => exact port.request h (fun f t e ht => by exact block (.captureAbandon link (.of f)) t ht)
  | referralFetch link body => exact port.request h (fun f t e ht => by exact block (.referralFetch link (.of f)) t ht)
  | referralList link body => exact port.request h (fun f t e ht => by exact block (.referralList link (.of f)) t ht)
  | referralReply link body => exact port.request h (fun f t e ht => by exact block (.referralReply link (.of f)) t ht)
  | logRead link body => exact port.request h (fun f t e ht => by exact block (.logRead link (.of f)) t ht)
  | logRelease link body => exact port.request h (fun f t e ht => by exact block (.logRelease link (.of f)) t ht)
  | logStatus link body => exact port.request h (fun f t e ht => by exact block (.logStatus link (.of f)) t ht)
  | meterRead link body => exact port.request h (fun f t e ht => by exact block (.meterRead link (.of f)) t ht)
  | linkStats link body => exact port.request h (fun f t e ht => by exact block (.linkStats link (.of f)) t ht)
  | stationSetNone link body => exact port.request h (fun f t e ht => by exact block (.stationSetNone link (.of f)) t ht)
  | stationSetEnable link body => exact port.request h (fun f t e ht => by exact block (.stationSetEnable link (.of f)) t ht)
  | stationSetDisable link body => exact port.request h (fun f t e ht => by exact block (.stationSetDisable link (.of f)) t ht)
  | stationSetHold link body => exact port.request h (fun f t e ht => by exact block (.stationSetHold link (.of f)) t ht)
  | stationSetRelease link body => exact port.request h (fun f t e ht => by exact block (.stationSetRelease link (.of f)) t ht)
  | stationSetOff link body => exact port.request h (fun f t e ht => by exact block (.stationSetOff link (.of f)) t ht)
  | stationRead link body => exact port.request h (fun f t e ht => by exact block (.stationRead link (.of f)) t ht)
  | attnExchange link body => exact port.request h (fun f t e ht => by exact block (.attnExchange link (.of f)) t ht)
  | setParam link body => exact port.request h (fun f t e ht => by exact block (.setParam link (.of f)) t ht)
  | getParam link body => exact port.request h (fun f t e ht => by exact block (.getParam link (.of f)) t ht)
  | identify link body => exact port.request h (fun f t e ht => by exact block (.identify link (.of f)) t ht)
  | teardown link body => exact port.request h (fun f t e ht => by exact block (.teardown link (.of f)) t ht)
  | warmReset link body => exact port.request h (fun f t e ht => by exact block (.warmReset link (.of f)) t ht)
  | invalidRequestCode link code =>
    show P (onInvalidRequestCode link code s)
    unfold onInvalidRequestCode
    split
    · exact h
    · exact port.format _ _ (port.frame _ _ h)
  | frameDiscarded _ _ => exact h
  | receiveGapTimeout _ => exact h
  | selectReleased => exact h
  | powerOn => exact h
  | resetPin => exact h
  | timebaseTick => exact h
  | runIdleTimerExpiry _ => exact h
  | jamTimerExpiry _ => exact h
  | lostTimerExpiry _ => exact h
  | silenceTimerExpiry _ => exact h
  | cardIdleTimerExpiry _ => exact h
  | referralTimeout _ => exact h
  | captureStallTimingExpiry => exact h
  | responseClockedOut => exact h

/-- A property that the ports and the owning blocks keep is kept by every byte heard (R153). -/
theorem hearByte_keeps {P : State → Prop} (port : PortKeeps P) (block : ∀ i t, P t → P (taken i t).1) (link : Link) (s : State)
    (x : LineByte) (h : P s) : P (s.hearByte link x) := by
  have moved : ∀ (t : State) (r : Receiver) (got : Received), P t → P ((t.setReceiver link r).received link got) := by
    intro t r got ht
    cases got with
    | nothing => exact port.receiver _ _ _ ht
    | discard => exact port.discard _ _ (port.receiver _ _ _ ht)
    | frame code body => exact takeRequest_keeps port block _ _ (port.receiver _ _ _ ht)
  unfold State.hearByte
  dsimp only
  split
  · exact moved _ _ _ (port.byte _ _ h)
  · exact moved _ _ _ h

/-- A property that the ports and the owning blocks keep is kept by any bytes heard on a link. -/
theorem onFrameDiscarded_keeps {P : State → Prop} (port : PortKeeps P) (block : ∀ i t, P t → P (taken i t).1) (link : Link)
    (heard : List LineByte) : ∀ s : State, P s → P (onFrameDiscarded link heard s) := by
  induction heard with
  | nil => intro s h; exact h
  | cons x l ih => intro s h; exact ih _ (hearByte_keeps port block link s x h)

/-- What the events of time, power and quiet lines need of a property of states. -/
structure EventsKeep (P : State → Prop) : Prop where
  quiet : ∀ s link, P s → P (s.lineQuiet link)
  unsent : ∀ s : State, P s → P { s with io := { s.io with mSent := 0 } }
  dropped : ∀ s : State, P s → P s.dropResponse
  reset : ∀ s cause, P s → P (s.resetBy cause)
  tick : ∀ s, P s → P (onTimebaseTick s)
  runIdle : ∀ st s, P s → P (onRunIdleTimerExpiry st s)
  jam : ∀ st s, P s → P (onJamTimerExpiry st s)
  lost : ∀ st s, P s → P (onLostTimerExpiry st s)
  silence : ∀ st s, P s → P (onSilenceTimerExpiry st s)
  cardIdle : ∀ st s, P s → P (onCardIdleTimerExpiry st s)
  referral : ∀ id s, P s → P (onReferralTimeout id s)
  stall : ∀ s, P s → P (onCaptureStallTimingExpiry s)

/-- A property that the ports, the owning blocks and the events keep is kept by every command, and every command completes. -/
theorem exec_keeps {P : State → Prop} (port : PortKeeps P) (block : ∀ i t, P t → P (taken i t).1) (events : EventsKeep P)
    (i : Instr) (s : State) (h : P s) : ∃ t, exec i s = .next t ∧ P t := by
  have request := takeRequest_keeps port block i s h
  cases i with
  | load link body => exact ⟨_, rfl, request⟩
  | advance link body => exact ⟨_, rfl, request⟩
  | query link body => exact ⟨_, rfl, request⟩
  | endRun link body => exact ⟨_, rfl, request⟩
  | delivered link body => exact ⟨_, rfl, request⟩
  | jam link body => exact ⟨_, rfl, request⟩
  | clear link body => exact ⟨_, rfl, request⟩
  | endSession link body => exact ⟨_, rfl, request⟩
  | authNotice link body => exact ⟨_, rfl, request⟩
  | sessionQuery link body => exact ⟨_, rfl, request⟩
  | poll link body => exact ⟨_, rfl, request⟩
  | captureResult link body => exact ⟨_, rfl, request⟩
  | acctCreate link body => exact ⟨_, rfl, request⟩
  | acctUpdate link body => exact ⟨_, rfl, request⟩
  | acctRead link body => exact ⟨_, rfl, request⟩
  | acctNext link body => exact ⟨_, rfl, request⟩
  | acctDelete link body => exact ⟨_, rfl, request⟩
  | priceWrite link body => exact ⟨_, rfl, request⟩
  | priceRead link body => exact ⟨_, rfl, request⟩
  | priceSwap link body => exact ⟨_, rfl, request⟩
  | runAbort link body => exact ⟨_, rfl, request⟩
  | captureHead link body => exact ⟨_, rfl, request⟩
  | captureAbandon link body => exact ⟨_, rfl, request⟩
  | referralFetch link body => exact ⟨_, rfl, request⟩
  | referralList link body => exact ⟨_, rfl, request⟩
  | referralReply link body => exact ⟨_, rfl, request⟩
  | logRead link body => exact ⟨_, rfl, request⟩
  | logRelease link body => exact ⟨_, rfl, request⟩
  | logStatus link body => exact ⟨_, rfl, request⟩
  | meterRead link body => exact ⟨_, rfl, request⟩
  | linkStats link body => exact ⟨_, rfl, request⟩
  | stationSetNone link body => exact ⟨_, rfl, request⟩
  | stationSetEnable link body => exact ⟨_, rfl, request⟩
  | stationSetDisable link body => exact ⟨_, rfl, request⟩
  | stationSetHold link body => exact ⟨_, rfl, request⟩
  | stationSetRelease link body => exact ⟨_, rfl, request⟩
  | stationSetOff link body => exact ⟨_, rfl, request⟩
  | stationRead link body => exact ⟨_, rfl, request⟩
  | attnExchange link body => exact ⟨_, rfl, request⟩
  | setParam link body => exact ⟨_, rfl, request⟩
  | getParam link body => exact ⟨_, rfl, request⟩
  | identify link body => exact ⟨_, rfl, request⟩
  | teardown link body => exact ⟨_, rfl, request⟩
  | warmReset link body => exact ⟨_, rfl, request⟩
  | invalidRequestCode _ _ => exact ⟨_, rfl, request⟩
  | frameDiscarded _ _ => exact ⟨_, rfl, onFrameDiscarded_keeps port block _ _ _ h⟩
  | receiveGapTimeout _ => exact ⟨_, rfl, events.quiet _ _ h⟩
  | selectReleased => exact ⟨_, rfl, events.unsent _ (events.quiet _ _ h)⟩
  | powerOn => exact ⟨_, rfl, events.reset _ _ h⟩
  | resetPin => exact ⟨_, rfl, events.reset _ _ h⟩
  | timebaseTick => exact ⟨_, rfl, events.tick _ h⟩
  | runIdleTimerExpiry _ => exact ⟨_, rfl, events.runIdle _ _ h⟩
  | jamTimerExpiry _ => exact ⟨_, rfl, events.jam _ _ h⟩
  | lostTimerExpiry _ => exact ⟨_, rfl, events.lost _ _ h⟩
  | silenceTimerExpiry _ => exact ⟨_, rfl, events.silence _ _ h⟩
  | cardIdleTimerExpiry _ => exact ⟨_, rfl, events.cardIdle _ _ h⟩
  | referralTimeout _ => exact ⟨_, rfl, events.referral _ _ h⟩
  | captureStallTimingExpiry => exact ⟨_, rfl, events.stall _ h⟩
  | responseClockedOut => exact ⟨_, rfl, events.dropped _ h⟩

/-- What the owning blocks need of a property of states; the requests that only read need nothing. -/
structure BlocksKeep (P : State → Prop) : Prop where
  load : ∀ s st f, P s → P (takeLoad st f s).1
  advance : ∀ s st f, P s → P (takeAdvance st f s).1
  endRun : ∀ s st, P s → P (s.endRun st).1
  delivered : ∀ s st seq, P s → P (s.delivered st seq).1
  jam : ∀ s st d r, P s → P (s.jam st d r).1
  clear : ∀ s st, P s → P (s.clear st).1
  endSession : ∀ s st, P s → P (s.endSession st).1
  authNotice : ∀ s f, P s → P (takeAuthNotice f s).1
  captureResult : ∀ s f, P s → P (takeCaptureResult f s).1
  acctCreate : ∀ s f, P s → P (takeAcctCreate f s).1
  acctUpdate : ∀ s f, P s → P (takeAcctUpdate f s).1
  acctDelete : ∀ s f, P s → P (takeAcctDelete f s).1
  priceWrite : ∀ s f, P s → P (takePriceWrite f s).1
  priceSwap : ∀ s f, P s → P (takePriceSwap f s).1
  runAbort : ∀ s f, P s → P (takeRunAbort f s).1
  captureAbandon : ∀ s f, P s → P (takeCaptureAbandon f s).1
  referralFetch : ∀ s f, P s → P (takeReferralFetch f s).1
  referralReply : ∀ s f, P s → P (takeReferralReply f s).1
  logRelease : ∀ s f, P s → P (takeLogRelease f s).1
  stationSetNone : ∀ s f, P s → P (takeStationSetNone f s).1
  attnExchange : ∀ s f, P s → P (takeAttnExchange f s).1
  setParam : ∀ s f, P s → P (takeSetParam f s).1
  warmReset : ∀ s f, P s → P (takeWarmReset f s).1
  linkStats : ∀ s link, P s → P (s.clearLink link)
  actions : ∀ s st flags, P s → P (s.enable st flags).1 ∧ P (s.disable st flags).1 ∧ P (s.hold st flags).1 ∧ P (s.release st flags).1 ∧
    P (s.turnOff st flags).1
  teardown : ∀ s f, P s → P (takeTeardown f s).1

/-- A property that the blocks keep is kept by whatever request is taken. -/
theorem BlocksKeep.taken {P : State → Prop} (b : BlocksKeep P) (i : Instr) (s : State) (h : P s) : P (taken i s).1 := by
  cases i with
  | load link body =>
    refine Body.take_keeps h (fun f => ?_)
    exact b.load s _ f h
  | advance link body =>
    refine Body.take_keeps h (fun f => ?_)
    exact b.advance s _ f h
  | query link body =>
    refine Body.take_keeps h (fun f => ?_)
    exact State.gate_keeps h h
  | endRun link body =>
    refine Body.take_keeps h (fun f => ?_)
    exact State.gate_keeps h (b.endRun s _ h)
  | delivered link body =>
    refine Body.take_keeps h (fun f => ?_)
    exact State.gate_keeps h (b.delivered s _ _ h)
  | jam link body =>
    refine Body.take_keeps h (fun f => ?_)
    exact State.gate_keeps h (b.jam s _ _ _ h)
  | clear link body =>
    refine Body.take_keeps h (fun f => ?_)
    exact State.gate_keeps h (b.clear s _ h)
  | endSession link body =>
    refine Body.take_keeps h (fun f => ?_)
    exact State.gate_keeps h (b.endSession s _ h)
  | authNotice link body =>
    refine Body.take_keeps h (fun f => ?_)
    exact b.authNotice s f h
  | sessionQuery link body =>
    refine Body.take_keeps h (fun f => ?_)
    show P (takeSessionQuery f s).1
    unfold takeSessionQuery
    (repeat' split) <;> exact h
  | poll link body =>
    refine Body.take_keeps h (fun f => ?_)
    show P (takePoll f s).1
    unfold takePoll
    (repeat' split) <;> exact h
  | captureResult link body =>
    refine Body.take_keeps h (fun f => ?_)
    exact b.captureResult s f h
  | acctCreate link body =>
    refine Body.take_keeps h (fun f => ?_)
    exact b.acctCreate s f h
  | acctUpdate link body =>
    refine Body.take_keeps h (fun f => ?_)
    exact b.acctUpdate s f h
  | acctRead link body =>
    refine Body.take_keeps h (fun f => ?_)
    show P (takeAcctRead f s).1
    unfold takeAcctRead
    (repeat' split) <;> exact h
  | acctNext link body =>
    refine Body.take_keeps h (fun f => ?_)
    show P (takeAcctNext f s).1
    unfold takeAcctNext
    (repeat' split) <;> exact h
  | acctDelete link body =>
    refine Body.take_keeps h (fun f => ?_)
    exact b.acctDelete s f h
  | priceWrite link body =>
    refine Body.take_keeps h (fun f => ?_)
    exact b.priceWrite s f h
  | priceRead link body =>
    refine Body.take_keeps h (fun f => ?_)
    show P (takePriceRead f s).1
    unfold takePriceRead
    (repeat' split) <;> exact h
  | priceSwap link body =>
    refine Body.take_keeps h (fun f => ?_)
    exact b.priceSwap s f h
  | runAbort link body =>
    refine Body.take_keeps h (fun f => ?_)
    exact b.runAbort s f h
  | captureHead link body =>
    refine Body.take_keeps h (fun f => ?_)
    exact h
  | captureAbandon link body =>
    refine Body.take_keeps h (fun f => ?_)
    exact b.captureAbandon s f h
  | referralFetch link body =>
    refine Body.take_keeps h (fun f => ?_)
    exact b.referralFetch s f h
  | referralList link body =>
    refine Body.take_keeps h (fun f => ?_)
    exact h
  | referralReply link body =>
    refine Body.take_keeps h (fun f => ?_)
    exact b.referralReply s f h
  | logRead link body =>
    refine Body.take_keeps h (fun f => ?_)
    show P (takeLogRead f s).1
    unfold takeLogRead
    (repeat' split) <;> exact h
  | logRelease link body =>
    refine Body.take_keeps h (fun f => ?_)
    exact b.logRelease s f h
  | logStatus link body =>
    refine Body.take_keeps h (fun f => ?_)
    exact h
  | meterRead link body =>
    refine Body.take_keeps h (fun f => ?_)
    show P (takeMeterRead f s).1
    unfold takeMeterRead
    (repeat' split) <;> exact h
  | linkStats link body =>
    refine Body.take_keeps h (fun f => ?_)
    show P (takeLinkStats f s).1
    unfold takeLinkStats
    split
    · exact h
    · dsimp only
      split
      · exact b.linkStats s _ h
      · exact h
  | stationSetNone link body =>
    refine Body.take_keeps h (fun f => ?_)
    exact b.stationSetNone s f h
  | stationSetEnable link body =>
    refine Body.take_keeps h (fun f => ?_)
    show P (takeAction State.enable f s).1
    unfold takeAction
    split
    · exact h
    · exact (b.actions s _ _ h).1
  | stationSetDisable link body =>
    refine Body.take_keeps h (fun f => ?_)
    show P (takeAction State.disable f s).1
    unfold takeAction
    split
    · exact h
    · exact (b.actions s _ _ h).2.1
  | stationSetHold link body =>
    refine Body.take_keeps h (fun f => ?_)
    show P (takeAction State.hold f s).1
    unfold takeAction
    split
    · exact h
    · exact (b.actions s _ _ h).2.2.1
  | stationSetRelease link body =>
    refine Body.take_keeps h (fun f => ?_)
    show P (takeAction State.release f s).1
    unfold takeAction
    split
    · exact h
    · exact (b.actions s _ _ h).2.2.2.1
  | stationSetOff link body =>
    refine Body.take_keeps h (fun f => ?_)
    show P (takeAction State.turnOff f s).1
    unfold takeAction
    split
    · exact h
    · exact (b.actions s _ _ h).2.2.2.2
  | stationRead link body =>
    refine Body.take_keeps h (fun f => ?_)
    show P (takeStationRead f s).1
    unfold takeStationRead
    (repeat' split) <;> exact h
  | attnExchange link body =>
    refine Body.take_keeps h (fun f => ?_)
    exact b.attnExchange s f h
  | setParam link body =>
    refine Body.take_keeps h (fun f => ?_)
    exact b.setParam s f h
  | getParam link body =>
    refine Body.take_keeps h (fun f => ?_)
    show P (takeGetParam f s).1
    unfold takeGetParam
    (repeat' split) <;> exact h
  | identify link body =>
    refine Body.take_keeps h (fun f => ?_)
    exact h
  | teardown link body =>
    refine Body.take_keeps h (fun f => ?_)
    exact b.teardown s f h
  | warmReset link body =>
    refine Body.take_keeps h (fun f => ?_)
    exact b.warmReset s f h
  | invalidRequestCode _ _ => exact h
  | frameDiscarded _ _ => exact h
  | receiveGapTimeout _ => exact h
  | selectReleased => exact h
  | powerOn => exact h
  | resetPin => exact h
  | timebaseTick => exact h
  | runIdleTimerExpiry _ => exact h
  | jamTimerExpiry _ => exact h
  | lostTimerExpiry _ => exact h
  | silenceTimerExpiry _ => exact h
  | cardIdleTimerExpiry _ => exact h
  | referralTimeout _ => exact h
  | captureStallTimingExpiry => exact h
  | responseClockedOut => exact h

/-- A property that ports, blocks and events keep is kept by every step. -/
theorem step_keeps {P : State → Prop} (port : PortKeeps P) (blocks : BlocksKeep P) (events : EventsKeep P)
    (queue : ∀ s rest, P s → P { s with pending := rest }) (sent : ∀ s : State, P s → P s.transmit) {s t : State} (h : P s)
    (e : step s = .next t) : P t := by
  unfold step at e
  split at e
  · cases e
    exact sent _ h
  · rename_i c rest _
    obtain ⟨u, hu, hp⟩ := exec_keeps port blocks.taken events c _ (queue s rest h)
    rw [hu] at e
    cases e
    exact hp

end Sys2Proof.Machine
end

