-- ==== Sys2Proof/Laws/LogSteps.lean ====
section
/-! SUPPORT. The owning blocks keep the law of the log (R136, R137), request by request and event by event. -/

namespace Sys2Proof.Machine

/-! ### Loading and advancing (Chapter 3) -/

theorem State.job_none_of_idle {s : State} {st : Station} (h : s.runIdle st = true) : s.job st = none := by
  simpa [State.runIdle, State.job] using h

theorem State.LogLaw.openRun {s : State} (h : s.LogLaw) (ha : s.admits = true) {st : Station} (hi : s.runIdle st = true)
    (n : Word) (k : SlotKind) (t : Tier) (bank : BankName) (template : Template) : (s.openRun st n k t bank template).LogLaw := by
  refine h.promise ha ?_ (by simp [State.openRun]) (by simp [State.openRun])
  have e := countP_set_up s.runs st ⟨some (s.newJob .active n k t bank template (some s.params.runIdle)), .none⟩
    (fun r : Run => r.job.isSome) (by have := State.job_none_of_idle hi; unfold State.job at this; rw [this]; rfl) rfl
  have e₁ : (s.openRun st n k t bank template).openRuns = s.openRuns + 1 := by
    simp only [State.openRuns, State.openRun, State.reserve_runs, State.mapCredit_runs, State.useBank_runs, State.setRun_runs]
    exact e
  have e₂ : (s.openRun st n k t bank template).openSessions = s.openSessions :=
    State.openSessions_of_sessions (by simp [State.openRun])
  omega

theorem State.LogLaw.openReferral {s : State} (h : s.LogLaw) (ha : s.admits = true) {st : Station} (hi : s.runIdle st = true)
    (n : Word) (bank : BankName) (template : Template) : (s.openReferral st n bank template).LogLaw := by
  refine h.promise ha ?_ (by simp [State.openReferral]) (by simp [State.openReferral])
  have e := countP_set_up s.runs st ⟨some (s.newJob .referral n .mirror 0 bank template none), .none⟩
    (fun r : Run => r.job.isSome) (by have := State.job_none_of_idle hi; unfold State.job at this; rw [this]; rfl) rfl
  have e₁ : (s.openReferral st n bank template).openRuns = s.openRuns + 1 := by
    simp only [State.openRuns, State.openReferral, State.reserve_runs, State.useBank_runs, State.setRun_runs,
      State.createReferral_runs, State.addMirror_runs]
    exact e
  have e₂ : (s.openReferral st n bank template).openSessions = s.openSessions :=
    State.openSessions_of_sessions (by simp [State.openReferral])
  omega

theorem State.LogLaw.latch {s : State} (h : s.LogLaw) (e : Event) : (s.latch e).LogLaw :=
  h.of_same (by simp) (by simp) (by simp) (by simp)

theorem State.LogLaw.resolveLoad {s : State} (h : s.LogLaw) (ha : s.admits = true) {st : Station} (hi : s.runIdle st = true)
    (n : Word) (bank : BankName) (template : Template) : (s.resolveLoad st n bank template).1.LogLaw := by
  unfold State.resolveLoad State.loadCard State.loadRemote State.loadHouse State.loadOn State.loadReferral State.refuse
  repeat' split
  all_goals first | exact h | exact h.openRun ha hi .. | exact h.openReferral ha hi ..

theorem State.LogLaw.loadChecks {s : State} (h : s.LogLaw) (st : Station) (n : Word) (template : Template) :
    (s.loadChecks st n template).1.LogLaw := by
  unfold State.loadChecks State.refuse
  repeat' split
  all_goals first
    | exact h
    | exact h.latch _
    | (apply h.resolveLoad <;> simp_all)

theorem State.LogLaw.takeLoad {s : State} (h : s.LogLaw) (st : Station) (f : LoadFields) : (takeLoad st f s).1.LogLaw := by
  unfold Machine.takeLoad
  split
  · exact h
  · refine State.gate_keeps h ?_
    split
    · exact h
    · exact h.loadChecks ..

theorem State.LogLaw.setJob {s : State} (h : s.LogLaw) {st : Station} {j : Job} (hj : s.job st = some j) (k : Job) :
    (s.setJob st k).LogLaw :=
  h.of_counts (State.setJob_openRuns k hj) (State.openSessions_of_sessions (by simp)) (by simp) (by simp)

@[simp] theorem State.setJob_job (s : State) (st : Station) (k : Job) : (s.setJob st k).job st = some k := by
  simp [State.job]

theorem State.LogLaw.grantSheet {s : State} (h : s.LogLaw) {st : Station} {j : Job} (hj : s.job st = some j) (k : SheetKind)
    (sides : Sides) (d grown : Nat) : (s.grantSheet st j k sides d grown).LogLaw := by
  unfold State.grantSheet
  refine State.LogLaw.setJob (j := j) ?_ ?_ _
  · exact h.of_same (by simp) (by simp) (by simp) (by simp)
  · simpa [State.job] using hj

/-- A sheet granted leaves a job in the run's context. -/
theorem State.grantSheet_job (s : State) (st : Station) (j : Job) (k : SheetKind) (sides : Sides) (d grown : Nat) :
    (s.grantSheet st j k sides d grown).job st = some (j.grant (kindMode k) d grown) := by
  simp [State.grantSheet]

theorem State.LogLaw.trySheet {s s' : State} (h : s.LogLaw) {st : Station} {k : SheetKind} {sides : Sides}
    (e : s.trySheet st k sides = .granted s') : s'.LogLaw := by
  unfold State.trySheet at e
  split at e
  · cases e
  · rename_i j hj
    repeat' split at e
    all_goals cases e
    exact h.grantSheet hj ..

theorem State.LogLaw.burst {st : Station} {k : SheetKind} {sides : Sides} (count : Nat) :
    ∀ {s : State}, s.LogLaw → (State.burst st k sides count s).state.LogLaw := by
  induction count with
  | zero => intro s h; exact h
  | succ n ih =>
    intro s h
    unfold State.burst
    cases e : s.trySheet st k sides with
    | stopped why x => exact h
    | granted s' => exact ih (h.trySheet e)

theorem State.LogLaw.askTopup {s : State} (h : s.LogLaw) (st : Station) (j : Job) (stop : StopReason) (x : Nat) :
    (s.askTopup st j stop x).LogLaw := by
  unfold State.askTopup
  split
  · exact h.of_same (by simp) (by simp) (by simp) (by simp)
  · exact h

theorem State.LogLaw.endBurst {e : BurstEnd} (h : e.state.LogLaw) (st : Station) (seq : Nat) :
    (State.endBurst st seq e).1.LogLaw := by
  unfold State.endBurst
  split
  · exact h
  · rename_i j hj
    exact (h.setJob hj _).askTopup ..

theorem State.LogLaw.takeAdvance {s : State} (h : s.LogLaw) (st : Station) (f : AdvanceFields) :
    (takeAdvance st f s).1.LogLaw := by
  unfold Machine.takeAdvance
  split
  · exact h
  · refine State.gate_keeps h ?_
    unfold State.advanceChecks State.advanceRun
    repeat' split
    all_goals first
      | exact h
      | exact State.LogLaw.endBurst (h.burst _) ..

/-! ### Ending a run (Chapter 3) -/

theorem State.LogLaw.endActive {s : State} (h : s.LogLaw) {st : Station} {j : Job} (hj : s.job st = some j) :
    (s.endActive st j).1.LogLaw := by
  unfold State.endActive State.closeOnRequest
  split
  · exact h.closeJob hj ..
  · exact h.setJob hj _

theorem State.LogLaw.endRun {s : State} (h : s.LogLaw) (st : Station) : (s.endRun st).1.LogLaw := by
  unfold State.endRun
  split
  · exact h
  · rename_i j hj
    cases j.state with
    | active => exact h.endActive hj
    | starved => exact h.endActive hj
    | jammed => exact h.closeJob hj ..
    | finishing => exact h
    | referral => exact h.returnJob hj ..

theorem State.LogLaw.takeRunAbort {s : State} (h : s.LogLaw) (x : Byte) : (takeRunAbort x s).1.LogLaw := by
  unfold Machine.takeRunAbort State.closeOnRequest State.cancelOnRequest
  split
  · exact h
  · split
    · exact h
    · rename_i j hj
      split
      · exact h.returnJob hj ..
      · exact h.closeJob hj ..

/-! ### Deliveries, jams and clears (Chapter 4) -/

theorem State.LogLaw.deliver {s : State} (h : s.LogLaw) (st : Station) (n : Nat) : (s.deliver st n).LogLaw :=
  h.of_counts (by simp) (State.openSessions_of_sessions (by simp)) (by simp) (by simp)

theorem State.LogLaw.restartIdle {s : State} (h : s.LogLaw) (st : Station) : (s.restartIdle st).LogLaw :=
  h.of_counts (by simp) (State.openSessions_of_sessions (by simp)) (by simp) (by simp)

theorem State.LogLaw.settleInterim {s : State} (h : s.LogLaw) (ha : s.admits = true) {st : Station} {j : Job}
    (hj : s.job st = some j) (k : Nat) : (s.settleInterim st j k).LogLaw := by
  refine h.append ha ?_ ?_ (by simp [State.settleInterim]) (by simp [State.settleInterim])
  · rw [← State.setJob_openRuns { j with settled := j.settled + k, hold := j.hold - k, sinceInterim := 0 } hj]
    exact State.openRuns_of_runs (by simp [State.settleInterim])
  · unfold State.settleInterim
    rw [State.openSessions_of_sessions (State.append_sessions ..), State.spend_openSessions]
    exact State.openSessions_of_sessions (by simp)

theorem State.LogLaw.interim {s : State} (h : s.LogLaw) (st : Station) : (s.interim st).1.LogLaw := by
  unfold State.interim
  split
  · exact h
  · rename_i j hj
    split
    · exact h
    · split
      · exact h
      · rename_i ha
        split
        · exact h.setJob hj _
        · exact h.settleInterim (by simpa using ha) hj _

theorem State.LogLaw.finishIfEmpty {s : State} (h : s.LogLaw) (st : Station) : (s.finishIfEmpty st).1.LogLaw := by
  unfold State.finishIfEmpty
  split
  · exact h
  · rename_i j hj
    split
    · exact h.closeJob hj ..
    · exact h

theorem State.LogLaw.delivered {s : State} (h : s.LogLaw) (st : Station) (seq : Nat) : (s.delivered st seq).1.LogLaw := by
  unfold State.delivered State.deliverUpTo State.deliverSheets
  repeat' split
  all_goals first
    | exact h
    | exact (((h.deliver ..).restartIdle ..).interim ..).finishIfEmpty ..

theorem State.LogLaw.countJam {s : State} (h : s.LogLaw) {st : Station} {j : Job} (hj : s.job st = some j) (k : Job) :
    (s.countJam st k).LogLaw :=
  (h.setJob hj { k with jams := jamsUp k.jams, idleTimer := some s.params.runIdle }).of_same (by simp [State.countJam])
    (by simp [State.countJam]) (by simp [State.countJam]) (by simp [State.countJam])

/-- The run that a delivery or an interim found open is open after it. -/
theorem State.deliver_job {s : State} {st : Station} {j : Job} (hj : s.job st = some j) (n : Nat) :
    (s.deliver st n).job st = some { j with
      delivered := j.delivered + (s.paths[st].take n).length
      sinceInterim := j.sinceInterim + (s.paths[st].take n).length } := by
  have hj : s.runs[st.val].job = some j := hj
  simp [State.job, hj]

theorem State.restartIdle_job {s : State} {st : Station} {j : Job} (hj : s.job st = some j) :
    (s.restartIdle st).job st = some { j with idleTimer := some s.params.runIdle } := by
  have hj : s.runs[st.val].job = some j := hj
  simp [State.job, hj]

@[simp] theorem State.settleInterim_runs (s : State) (st : Station) (j : Job) (k : Nat) :
    (s.settleInterim st j k).runs =
      s.runs.set st { s.runs[st] with job := some { j with settled := j.settled + k, hold := j.hold - k, sinceInterim := 0 } } := by
  simp [State.settleInterim]

theorem State.interim_job {s : State} {st : Station} {j : Job} (hj : s.job st = some j) :
    ∃ k, (s.interim st).1.job st = some k := by
  unfold State.interim
  rw [hj]
  dsimp only
  repeat' split
  · exact ⟨_, hj⟩
  · exact ⟨_, hj⟩
  · exact ⟨_, State.setJob_job ..⟩
  · exact ⟨{ j with settled := j.settled + j.unsettled s.paths[st] / 100, hold := j.hold - j.unsettled s.paths[st] / 100
                    sinceInterim := 0 }, by simp [State.job]⟩

theorem State.bringOut_job {s : State} {st : Station} {j : Job} (hj : s.job st = some j) (n : Nat) :
    ∃ k, (s.bringOut st n).1.job st = some k := by
  unfold State.bringOut
  split
  · exact ⟨_, hj⟩
  · exact State.interim_job (State.deliver_job hj n)

theorem State.LogLaw.bringOut {s : State} (h : s.LogLaw) (st : Station) (n : Nat) : (s.bringOut st n).1.LogLaw := by
  unfold State.bringOut
  split
  · exact h
  · exact (h.deliver ..).interim ..

theorem State.countJam_job (s : State) (st : Station) (k : Job) :
    (s.countJam st k).job st = some { k with jams := jamsUp k.jams, idleTimer := some s.params.runIdle } := by
  simp [State.countJam, State.job]

theorem State.LogLaw.enterJammed {s : State} (h : s.LogLaw) {st : Station} {j : Job} (hj : s.job st = some j) (k : Job) :
    (s.enterJammed st k).LogLaw :=
  (h.setJob hj { k with state := .jammed }).of_same (by simp [State.enterJammed]) (by simp [State.enterJammed])
    (by simp [State.enterJammed]) (by simp [State.enterJammed])

theorem State.LogLaw.jamRun {s : State} (h : s.LogLaw) {st : Station} {j : Job} (hj : s.job st = some j)
    (last recovered : Nat) : (s.jamRun st j last recovered).1.LogLaw := by
  obtain ⟨k, hk⟩ := State.bringOut_job hj
    (deliverable s.paths[st] last + min recovered (s.paths[st].length - deliverable s.paths[st] last))
  have h₁ := h.bringOut st (deliverable s.paths[st] last + min recovered (s.paths[st].length - deliverable s.paths[st] last))
  have h₂ : ∀ m, (State.loseSheets (s.bringOut st (deliverable s.paths[st] last +
      min recovered (s.paths[st].length - deliverable s.paths[st] last))).1 st m).LogLaw := by
    intro m
    unfold State.loseSheets
    refine State.LogLaw.countJam (j := k) (h₁.of_same (by simp) (by simp) (by simp) (by simp)) ?_ _
    simpa [State.job] using hk
  unfold State.jamRun State.endJam
  dsimp only
  split
  · exact (h₂ _).closeJob (State.countJam_job ..) ..
  · exact (h₂ _).enterJammed (State.countJam_job ..) _

theorem State.LogLaw.jam {s : State} (h : s.LogLaw) (st : Station) (last recovered : Nat) :
    (s.jam st last recovered).1.LogLaw := by
  unfold State.jam
  split
  · exact h
  · rename_i j hj
    cases j.state with
    | referral => exact h
    | jammed => exact h.countJam hj _
    | active => exact h.jamRun hj ..
    | starved => exact h.jamRun hj ..
    | finishing => exact h.jamRun hj ..

theorem State.LogLaw.clear {s : State} (h : s.LogLaw) (st : Station) : (s.clear st).1.LogLaw := by
  unfold State.clear State.answer
  split
  · exact h
  · rename_i j hj
    split
    · exact (h.setJob hj { j with state := .active, idleTimer := some s.params.runIdle }).of_same (by simp [State.clearJam])
        (by simp [State.clearJam]) (by simp [State.clearJam]) (by simp [State.clearJam])
    · exact h

/-! ### Card sessions (Chapter 5) -/

/-- Replacing a session that is not NONE by another that is not leaves the number of sessions. -/
theorem State.openSessions_set {s t : State} {st : Station} {x y : Session} (hx : s.sessions[st] = some x)
    (ht : t.sessions = s.sessions.set st (some y)) : t.openSessions = s.openSessions := by
  unfold State.openSessions
  rw [ht]
  refine countP_set_same _ _ _ _ ?_
  have hx : s.sessions[st.val] = some x := hx
  simp [hx]

theorem State.LogLaw.setSession {s t : State} (h : s.LogLaw) {st : Station} {x y : Session} (hx : s.sessions[st] = some x)
    (ht : t.sessions = s.sessions.set st (some y)) (hr : t.runs = s.runs) (hl : t.log = s.log) (hv : t.reserved = s.reserved) :
    t.LogLaw :=
  h.of_counts (State.openRuns_of_runs hr) (State.openSessions_set hx ht) (by rw [hl]) hv

theorem State.LogLaw.openSession {s : State} (h : s.LogLaw) (ha : s.admits = true) {st : Station} (hn : s.sessions[st] = none)
    (f : AuthNoticeFields) : (s.openSession st f).LogLaw := by
  refine h.promise ha ?_ (by simp [State.openSession]) (by simp [State.openSession])
  have e := countP_set_up s.sessions st
    (some { state := .opened, tier := s.params.classTier f.cardClass, auths := [authOf f], spent := 0
            idleTimer := some s.params.cardIdle })
    (fun x : Option Session => x.isSome) (by rw [hn]; rfl) rfl
  have e₁ : (s.openSession st f).openSessions = s.openSessions + 1 := by
    simp only [State.openSessions, State.openSession, State.reserve_sessions, State.setCard_sessions, State.setSession_sessions]
    exact e
  have e₂ : (s.openSession st f).openRuns = s.openRuns := State.openRuns_of_runs (by simp [State.openSession])
  omega

theorem State.LogLaw.takeAuthNotice {s : State} (h : s.LogLaw) (f : AuthNoticeFields) : (takeAuthNotice f s).1.LogLaw := by
  unfold Machine.takeAuthNotice State.authChecks
  split
  · exact h
  · rename_i st _
    split
    · exact h
    · split
      · exact h
      · split
        · exact h
        · split
          · exact h
          · split
            · rename_i hn
              unfold State.authOpen State.refuse
              repeat' split
              all_goals first
                | exact h
                | exact h.latch _
                | exact h.openSession (by simp_all) hn f
            · rename_i x hx
              unfold State.authTopUp State.refuse
              repeat' split
              all_goals first
                | exact h
                | exact h.setSession hx (y := { x with auths := x.auths ++ [authOf f], idleTimer := some s.params.cardIdle })
                    (by simp [State.topUpSession]) (by simp [State.topUpSession]) (by simp [State.topUpSession])
                    (by simp [State.topUpSession])

theorem State.LogLaw.drainTest {s : State} (h : s.LogLaw) (st : Station) : (s.drainTest st).LogLaw :=
  h.of_same (by simp) (by simp) (by simp) (by simp)

theorem State.LogLaw.enterCapturing {s : State} (h : s.LogLaw) {st : Station} {x : Session} (hx : s.sessions[st] = some x)
    (y : Session) : (s.enterCapturing st y).LogLaw :=
  h.setSession hx (y := { y with state := .capturing, idleTimer := none }) (by simp) (by simp) (by simp) (by simp)

theorem State.LogLaw.enterClosing {s : State} (h : s.LogLaw) {st : Station} {x : Session} (hx : s.sessions[st] = some x)
    (y : Session) : (s.enterClosing st y).LogLaw :=
  h.setSession hx (y := { y with state := .closing, idleTimer := none }) (by simp) (by simp) (by simp) (by simp)

theorem State.LogLaw.leaveOpen {s : State} (h : s.LogLaw) {st : Station} {x : Session} (hx : s.sessions[st] = some x)
    (y : Session) : (s.leaveOpen st y).LogLaw := by
  unfold State.leaveOpen
  split
  · exact (h.enterCapturing hx _).drainTest _
  · exact (h.enterClosing hx _).drainTest _

theorem State.LogLaw.endSession {s : State} (h : s.LogLaw) (st : Station) : (s.endSession st).1.LogLaw := by
  unfold State.endSession
  split
  · exact h
  · rename_i x hx
    repeat' split
    all_goals first
      | exact h
      | exact h.leaveOpen hx _

theorem State.LogLaw.logSession {s : State} (h : s.LogLaw) (st : Station) : (s.logSession st).LogLaw := by
  unfold State.logSession
  split
  · exact h
  · rename_i x hx
    split
    · refine h.giveBack ?_ (by simp) (by simp)
      have e := countP_set_down s.sessions st none (fun y : Option Session => y.isSome) (by rw [hx]; rfl) rfl
      have e₁ : (((((s.append (x.entry st)).unreserve).setSession st none).latch .sessionLogged)).openSessions + 1 =
          s.openSessions := by
        simp only [State.openSessions, State.latch_sessions, State.setSession_sessions, State.unreserve_sessions,
          State.append_sessions]
        exact e
      have e₂ : (((((s.append (x.entry st)).unreserve).setSession st none).latch .sessionLogged)).openRuns = s.openRuns :=
        State.openRuns_of_runs (by simp)
      omega
    · exact h

theorem State.LogLaw.tryWait : ∀ (wait : List Station) {s : State}, s.LogLaw → (State.tryWait wait s).LogLaw
  | [], _, h => h.of_same rfl rfl rfl rfl
  | st :: rest, s, h => by
    unfold State.tryWait
    split
    · exact h.of_same rfl rfl rfl rfl
    · rename_i x hx
      split
      · exact State.LogLaw.tryWait rest (h.enterCapturing hx _)
      · exact h.of_same rfl rfl rfl rfl

theorem State.LogLaw.removeHead {s : State} (h : s.LogLaw) (head : Order) (rest : List Order) (o : AuthOutcome) :
    (s.removeHead head rest o).LogLaw := by
  have h₁ : (s.storeOutcome head rest o).LogLaw := by
    refine h.of_counts rfl ?_ rfl rfl
    unfold State.openSessions
    refine countP_set_same _ _ _ _ ?_
    cases s.sessions[head.station] <;> rfl
  exact (State.LogLaw.tryWait _ (h₁.logSession head.station)).of_same rfl rfl rfl rfl

theorem State.LogLaw.latchIf {s : State} (h : s.LogLaw) (c : Bool) (e : Event) : (s.latchIf c e).LogLaw :=
  h.of_same (by simp) (by simp) (by simp) (by simp)

theorem State.LogLaw.takeCaptureResult {s : State} (h : s.LogLaw) (f : CaptureResultFields) :
    (takeCaptureResult f s).1.LogLaw := by
  unfold Machine.takeCaptureResult State.refuse
  repeat' split
  all_goals first
    | exact h
    | exact (h.latchIf ..).removeHead ..

theorem State.LogLaw.takeCaptureAbandon {s : State} (h : s.LogLaw) (f : CaptureAbandonFields) :
    (takeCaptureAbandon f s).1.LogLaw := by
  unfold Machine.takeCaptureAbandon State.refuse
  repeat' split
  all_goals first
    | exact h
    | exact h.removeHead ..

/-! ### The console's requests -/

theorem State.LogLaw.adjust {s t : State} (h : s.LogLaw) {delta : Int} (ha : delta ≠ 0 → s.admits = true) (hr : t.runs = s.runs)
    (hs : t.sessions = s.sessions) (hl : t.log = s.log) (hv : t.reserved = s.reserved) (n : Word) (v : Int) :
    (t.adjust n delta v).LogLaw := by
  unfold State.adjust
  split
  · exact h.of_same hr hs hl hv
  · rename_i hd
    exact h.append (ha hd) (State.openRuns_of_runs (by simp [hr])) (State.openSessions_of_sessions (by simp [hs]))
      (by simp [hl]) (by simp [hv])

theorem State.LogLaw.takeAcctCreate {s : State} (h : s.LogLaw) (f : AcctCreateFields) : (takeAcctCreate f s).1.LogLaw := by
  unfold Machine.takeAcctCreate State.refuse
  split
  · split
    · exact h
    · split
      · exact h
      · rename_i kind tier _ _ _ e
        refine h.adjust ?_ (by simp) (by simp) (by simp) (by simp) ..
        intro hne
        unfold State.createRefusal at e
        repeat' split at e
        all_goals simp_all
  · exact h

theorem State.LogLaw.takeAcctUpdate {s : State} (h : s.LogLaw) (f : AcctUpdateFields) : (takeAcctUpdate f s).1.LogLaw := by
  unfold Machine.takeAcctUpdate State.refuse
  repeat' split
  all_goals try exact h
  rename_i r _ _ e
  refine h.adjust ?_ (by simp) (by simp) (by simp) (by simp) ..
  intro hne
  unfold State.updateRefusal at e
  have hs : (updateOf f r.kind).delta.isSome = true := by
    cases hd : (updateOf f r.kind).delta with
    | none => rw [hd] at hne; exact absurd rfl hne
    | some d => rfl
  repeat' split at e
  all_goals simp_all

theorem State.LogLaw.takeAcctDelete {s : State} (h : s.LogLaw) (n : Word) : (takeAcctDelete n s).1.LogLaw := by
  unfold Machine.takeAcctDelete State.refuse
  repeat' split
  all_goals exact h

theorem State.LogLaw.takePriceWrite {s : State} (h : s.LogLaw) (f : PriceWriteFields) : (takePriceWrite f s).1.LogLaw := by
  unfold Machine.takePriceWrite State.refuse
  repeat' split
  all_goals exact h

theorem State.LogLaw.takePriceSwap {s : State} (h : s.LogLaw) (x : Byte) : (takePriceSwap x s).1.LogLaw := by
  unfold Machine.takePriceSwap State.refuse
  repeat' split
  all_goals try exact h
  exact h.append (by simp_all) (State.openRuns_of_runs (by simp [State.swapTo]))
    (State.openSessions_of_sessions (by simp [State.swapTo])) (by simp [State.swapTo]) (by simp [State.swapTo])

theorem State.LogLaw.takeReferralFetch {s : State} (h : s.LogLaw) (u : Unit) : (takeReferralFetch u s).1.LogLaw := by
  unfold Machine.takeReferralFetch
  split
  · exact h
  · exact h.of_same (by simp) (by simp) (by simp) (by simp)

theorem State.LogLaw.removeReferral {s : State} (h : s.LogLaw) (id : Nat) : (s.removeReferral id).LogLaw :=
  h.of_same (by simp) (by simp) (by simp) (by simp)

theorem State.LogLaw.reply {s : State} (h : s.LogLaw) (r : Referral) (d : Decision) : (s.reply r d).LogLaw := by
  unfold State.reply State.replyOpen State.replyTopup
  have h' := h.removeReferral r.id
  split
  · split
    · exact h'
    · rename_i j hj
      split
      · refine State.LogLaw.of_counts (h'.setJob hj j) ?_ (State.openSessions_of_sessions (by simp [State.grantRun]))
          (by simp [State.grantRun]) (by simp [State.grantRun])
        rw [State.setJob_openRuns j hj]
        unfold State.openRuns
        simp only [State.grantRun, State.setRun_runs, State.activateMirror_runs]
        refine countP_set_same _ _ _ _ ?_
        have hj : (s.removeReferral r.id).runs[r.station.val].job = some j := hj
        simp only [State.removeReferral_runs] at hj
        simp [hj]
      · exact h'.returnJob hj ..
  · split
    · exact h'.of_same (by simp) (by simp) (by simp) (by simp)
    · exact h'

theorem State.LogLaw.takeReferralReply {s : State} (h : s.LogLaw) (f : ReferralReplyFields) :
    (takeReferralReply f s).1.LogLaw := by
  unfold Machine.takeReferralReply State.refuse
  repeat' split
  all_goals first
    | exact h
    | exact h.reply ..

theorem releaseThrough_length {seq : Nat} : ∀ {log rest : List LogRecord}, releaseThrough seq log = some rest →
    rest.length ≤ log.length
  | [], _, e => by simp [releaseThrough] at e
  | r :: log, rest, e => by
    unfold releaseThrough at e
    split at e
    · cases e; simp
    · have := releaseThrough_length e
      simp only [List.length_cons]
      omega

theorem State.LogLaw.takeLogRelease {s : State} (h : s.LogLaw) (seq : Half) : (takeLogRelease seq s).1.LogLaw := by
  unfold Machine.takeLogRelease State.refuse
  split
  · exact h
  · rename_i rest e
    have := releaseThrough_length e
    have h₁ : s.reserved = s.openRuns + s.openSessions := h.1
    have h₂ : s.log.length + s.reserved ≤ Config.logCapacity := h.2
    exact ⟨h₁, by show rest.length + s.reserved ≤ Config.logCapacity; omega⟩

theorem State.LogLaw.stationSet {s : State} (h : s.LogLaw) (st : Station) (r : StationRecord) : (s.stationSet st r).1.LogLaw :=
  h.of_same (by simp [State.stationSet]) (by simp [State.stationSet]) (by simp [State.stationSet]) (by simp [State.stationSet])

theorem State.LogLaw.action {s : State} (h : s.LogLaw) (st : Station) (flags : Option Byte) :
    (s.enable st flags).1.LogLaw ∧ (s.disable st flags).1.LogLaw ∧ (s.hold st flags).1.LogLaw ∧
    (s.release st flags).1.LogLaw ∧ (s.turnOff st flags).1.LogLaw := by
  unfold State.enable State.disable State.hold State.release State.turnOff State.turnOffWhenFree State.refuse
  refine ⟨?_, ?_, ?_, ?_, ?_⟩
  all_goals repeat' split
  all_goals exact h

theorem State.LogLaw.takeStationSetNone {s : State} (h : s.LogLaw) (f : StationSetNoneFields) :
    (takeStationSetNone f s).1.LogLaw := by
  unfold Machine.takeStationSetNone State.refuse
  repeat' split
  all_goals exact h

theorem State.LogLaw.teardown {s : State} (h : s.LogLaw) : s.teardown.LogLaw := by
  have run : ∀ (l : List Station) (t : State), t.LogLaw → (l.foldl State.teardownRun t).LogLaw := by
    intro l
    induction l with
    | nil => intro t ht; exact ht
    | cons st l ih =>
      intro t ht
      refine ih _ ?_
      unfold State.teardownRun
      split
      · exact ht
      · rename_i j hj
        split
        · exact ht.returnJob hj ..
        · exact ht.closeJob hj ..
  have session : ∀ (l : List Station) (t : State), t.LogLaw → (l.foldl State.teardownSession t).LogLaw := by
    intro l
    induction l with
    | nil => intro t ht; exact ht
    | cons st l ih =>
      intro t ht
      refine ih _ ?_
      unfold State.teardownSession
      split
      · exact ht
      · rename_i x hx
        split
        · exact ht.leaveOpen hx _
        · exact ht
  exact session _ _ (run _ _ h)

theorem State.LogLaw.takeWarmReset {s : State} (h : s.LogLaw) (u : Unit) : (takeWarmReset u s).1.LogLaw := by
  unfold Machine.takeWarmReset State.refuse
  split
  · exact h
  · rename_i hw
    simp only [State.workOpen, Bool.or_eq_true, not_or] at hw
    have e₁ : s.openRuns = 0 := by simpa using hw.1.1.1
    have e₂ : s.openSessions = 0 := by simpa using hw.1.1.2
    have h₁ : s.reserved = s.openRuns + s.openSessions := h.1
    have h₂ : s.log.length + s.reserved ≤ Config.logCapacity := h.2
    have e₃ : s.warmReset.openRuns = 0 := rfl
    have e₄ : s.warmReset.openSessions = s.openSessions := rfl
    refine ⟨?_, h₂⟩
    show s.reserved = s.warmReset.openRuns + s.warmReset.openSessions
    omega

/-! ### Time -/

theorem State.LogLaw.tick {s : State} (h : s.LogLaw) : (onTimebaseTick s).LogLaw := by
  refine h.of_counts ?_ ?_ rfl rfl
  · show (Vector.ofFn s.tickRun).toList.countP _ = s.runs.toList.countP _
    have e : ∀ v : Vector Run 8, (Vector.ofFn (fun st : Station => v[st])) = v := by
      intro v; ext i hi; simp
    have : s.runs.toList.countP (fun r => r.job.isSome) =
        (Vector.ofFn (fun st : Station => s.runs[st])).toList.countP (fun r => r.job.isSome) := by rw [e]
    rw [this]
    simp only [Vector.toList_ofFn, List.ofFn_succ, List.countP_cons, List.ofFn_zero, State.tickRun, Option.isSome_map]
  · show (Vector.ofFn s.tickSession).toList.countP _ = s.sessions.toList.countP _
    have e : ∀ v : Vector (Option Session) 8, (Vector.ofFn (fun st : Station => v[st])) = v := by
      intro v; ext i hi; simp
    have : s.sessions.toList.countP (fun r => r.isSome) =
        (Vector.ofFn (fun st : Station => s.sessions[st])).toList.countP (fun r => r.isSome) := by rw [e]
    rw [this]
    simp only [Vector.toList_ofFn, List.ofFn_succ, List.countP_cons, List.ofFn_zero, State.tickSession, Option.isSome_map]

theorem State.LogLaw.lineQuiet {s : State} (h : s.LogLaw) (link : Link) : (s.lineQuiet link).LogLaw := by
  unfold State.lineQuiet
  split
  · exact h
  · exact h.of_same (by simp) (by simp) (by simp) (by simp)
  · exact h.of_same (by simp) (by simp) (by simp) (by simp)

theorem State.LogLaw.timeOut {s : State} (h : s.LogLaw) (r : Referral) : (s.timeOut r).LogLaw := by
  unfold State.timeOut
  split
  · exact h
  · split
    · exact h
    · rename_i hj
      exact h.returnJob hj ..

theorem State.LogLaw.clockByte {s : State} (h : s.LogLaw) (x : Byte) : (s.clockByte x).LogLaw := by
  unfold State.clockByte
  repeat' split
  all_goals exact h

/-! ### The law through ports, blocks and events -/

theorem LogLaw_port : PortKeeps State.LogLaw where
  frame := fun _ _ h => h.of_same (by simp) (by simp) (by simp) (by simp)
  access := fun _ _ _ h => h.of_same (by simp) (by simp) (by simp) (by simp)
  format := fun _ _ h => h.of_same (by simp) (by simp) (by simp) (by simp)
  counted := fun _ _ h => h.of_same (by simp) (by simp) (by simp) (by simp)
  discard := fun _ _ h => h.of_same (by simp) (by simp) (by simp) (by simp)
  receiver := fun _ _ _ h => h.of_same (by simp) (by simp) (by simp) (by simp)
  byte := fun _ x h => h.clockByte x
  answered := fun _ _ _ h => h.of_same (by simp) (by simp) (by simp) (by simp)

theorem LogLaw_expiries (st : Station) {s : State} (h : s.LogLaw) :
    (onRunIdleTimerExpiry st s).LogLaw ∧ (onJamTimerExpiry st s).LogLaw ∧ (onLostTimerExpiry st s).LogLaw := by
  unfold onRunIdleTimerExpiry onJamTimerExpiry onLostTimerExpiry
  cases hj : s.job st with
  | none => exact ⟨h, h, h⟩
  | some j =>
    dsimp only
    refine ⟨?_, ?_, ?_⟩
    · split
      · exact h.closeJob hj ..
      · exact h
    · split
      · exact (h.closeJob hj ..).latch _
      · exact h
    · split
      · split
        · exact h.returnJob hj ..
        · exact h.closeJob hj ..
      · exact h

theorem LogLaw_events : EventsKeep State.LogLaw where
  quiet := fun _ link h => h.lineQuiet link
  unsent := fun _ h => h.of_same rfl rfl rfl rfl
  dropped := fun _ h => h.of_same rfl rfl rfl rfl
  reset := fun _ _ _ => ⟨rfl, Nat.zero_le _⟩
  tick := fun _ h => h.tick
  runIdle := fun st _ h => (LogLaw_expiries st h).1
  jam := fun st _ h => (LogLaw_expiries st h).2.1
  lost := fun st _ h => (LogLaw_expiries st h).2.2
  silence := fun st s h => by
    unfold onSilenceTimerExpiry
    split
    · exact h.of_same rfl rfl rfl rfl
    · exact h
  cardIdle := fun st s h => by
    unfold onCardIdleTimerExpiry
    split
    · exact h
    · rename_i hx
      split
      · exact h.leaveOpen hx _
      · exact h
  referral := fun id s h => by
    unfold onReferralTimeout
    split
    · exact h
    · split
      · exact (h.removeReferral id).timeOut _
      · exact h
  stall := fun s h => by
    unfold onCaptureStallTimingExpiry
    split
    · exact h.of_same rfl rfl rfl rfl
    · exact h

theorem LogLaw_blocks : BlocksKeep State.LogLaw where
  load := fun _ st f h => h.takeLoad st f
  advance := fun _ st f h => h.takeAdvance st f
  endRun := fun _ st h => h.endRun st
  delivered := fun _ st seq h => h.delivered st seq
  jam := fun _ st d r h => h.jam st d r
  clear := fun _ st h => h.clear st
  endSession := fun _ st h => h.endSession st
  authNotice := fun _ f h => h.takeAuthNotice f
  captureResult := fun _ f h => h.takeCaptureResult f
  acctCreate := fun _ f h => h.takeAcctCreate f
  acctUpdate := fun _ f h => h.takeAcctUpdate f
  acctDelete := fun _ n h => h.takeAcctDelete n
  priceWrite := fun _ f h => h.takePriceWrite f
  priceSwap := fun _ x h => h.takePriceSwap x
  runAbort := fun _ x h => h.takeRunAbort x
  captureAbandon := fun _ f h => h.takeCaptureAbandon f
  referralFetch := fun _ u h => h.takeReferralFetch u
  referralReply := fun _ f h => h.takeReferralReply f
  logRelease := fun _ seq h => h.takeLogRelease seq
  stationSetNone := fun _ f h => h.takeStationSetNone f
  attnExchange := fun _ _ h => h.of_same rfl rfl rfl rfl
  setParam := fun _ _ h => by
    unfold takeSetParam State.refuse
    repeat' split
    all_goals exact h
  warmReset := fun _ u h => h.takeWarmReset u
  linkStats := fun _ _ h => h.of_same (by simp) (by simp) (by simp) (by simp)
  actions := fun _ st flags h => h.action st flags
  teardown := fun _ _ h => by
    unfold takeTeardown
    dsimp only
    exact h.teardown

end Sys2Proof.Machine
end

