-- ==== Sys2Proof/Laws/PerInstr.lean ====
section
/-! SUPPORT. One law for every constructor: a command that a frame spells is read back from its frame, and the frame's body is no
longer than a frame carries (R152, R179). -/

namespace Sys2Proof.Laws.Coded

/-- The frame of a well-formed command decodes to the command, and its body is at most 120 bytes. -/
def Statement (i : Instr) : Prop :=
  i.wf = true → ∀ f, encodeRequest i = some f → decodeRequest f.link f.code f.body = i ∧ f.body.length ≤ Config.bodyMax

theorem load (link : Link) (body) : Statement (.load link body) := by
  intro _ f e
  obtain ⟨x, rfl, rfl⟩ := spell_some e
  exact ⟨by simp [decodeRequest, bodyLoad, be4], by simp [be4, Config.bodyMax]⟩

theorem advance (link : Link) (body) : Statement (.advance link body) := by
  intro h f e
  obtain ⟨x, rfl, rfl⟩ := spell_some e
  obtain ⟨seq, count, overrides⟩ := x
  match overrides, h with
  | [], _ => exact ⟨by simp [decodeRequest, bodyAdvance, be2], by simp [be2, Config.bodyMax]⟩
  | [o], _ => exact ⟨by simp [decodeRequest, bodyAdvance, be2, encodeOverride], by simp [be2, encodeOverride, Config.bodyMax]⟩
  | [o, o'], _ =>
    exact ⟨by simp [decodeRequest, bodyAdvance, be2, encodeOverride], by simp [be2, encodeOverride, Config.bodyMax]⟩
  | _ :: _ :: _ :: _, h => simp [Instr.wf, Body.all, advanceLengthOk] at h

theorem query (link : Link) (body) : Statement (.query link body) := by
  intro _ f e
  obtain ⟨x, rfl, rfl⟩ := spell_some e
  exact ⟨by simp [decodeRequest, bodyUnit], by simp [Config.bodyMax]⟩

theorem endRun (link : Link) (body) : Statement (.endRun link body) := by
  intro _ f e
  obtain ⟨x, rfl, rfl⟩ := spell_some e
  exact ⟨by simp [decodeRequest, bodyUnit], by simp [Config.bodyMax]⟩

theorem delivered (link : Link) (body) : Statement (.delivered link body) := by
  intro _ f e
  obtain ⟨x, rfl, rfl⟩ := spell_some e
  exact ⟨by simp [decodeRequest, bodyHalf, be2], by simp [be2, Config.bodyMax]⟩

theorem jam (link : Link) (body) : Statement (.jam link body) := by
  intro _ f e
  obtain ⟨x, rfl, rfl⟩ := spell_some e
  exact ⟨by simp [decodeRequest, bodyJam, be2], by simp [be2, Config.bodyMax]⟩

theorem clear (link : Link) (body) : Statement (.clear link body) := by
  intro _ f e
  obtain ⟨x, rfl, rfl⟩ := spell_some e
  exact ⟨by simp [decodeRequest, bodyUnit], by simp [Config.bodyMax]⟩

theorem endSession (link : Link) (body) : Statement (.endSession link body) := by
  intro _ f e
  obtain ⟨x, rfl, rfl⟩ := spell_some e
  exact ⟨by simp [decodeRequest, bodyUnit], by simp [Config.bodyMax]⟩

theorem authNotice (link : Link) (body) : Statement (.authNotice link body) := by
  intro _ f e
  obtain ⟨x, rfl, rfl⟩ := spell_some e
  exact ⟨by simp [decodeRequest, bodyAuthNotice, be4], by simp [be4, Config.bodyMax]⟩

theorem sessionQuery (link : Link) (body) : Statement (.sessionQuery link body) := by
  intro _ f e
  obtain ⟨x, rfl, rfl⟩ := spell_some e
  exact ⟨by simp [decodeRequest, bodyByte], by simp [Config.bodyMax]⟩

theorem poll (link : Link) (body) : Statement (.poll link body) := by
  intro _ f e
  obtain ⟨x, rfl, rfl⟩ := spell_some e
  exact ⟨by simp [decodeRequest, bodyUnit], by simp [Config.bodyMax]⟩

theorem captureResult (link : Link) (body) : Statement (.captureResult link body) := by
  intro _ f e
  obtain ⟨x, rfl, rfl⟩ := spell_some e
  exact ⟨by simp [decodeRequest, bodyCaptureResult, be4], by simp [be4, Config.bodyMax]⟩

theorem acctCreate (link : Link) (body) : Statement (.acctCreate link body) := by
  intro _ f e
  obtain ⟨x, rfl, rfl⟩ := spell_some e
  exact ⟨by simp [decodeRequest, bodyAcctCreate, be4], by simp [be4, Config.bodyMax]⟩

theorem acctUpdate (link : Link) (body) : Statement (.acctUpdate link body) := by
  intro _ f e
  obtain ⟨x, rfl, rfl⟩ := spell_some e
  exact ⟨by simp [decodeRequest, bodyAcctUpdate, be4], by simp [be4, Config.bodyMax]⟩

theorem acctRead (link : Link) (body) : Statement (.acctRead link body) := by
  intro _ f e
  obtain ⟨x, rfl, rfl⟩ := spell_some e
  exact ⟨by simp [decodeRequest, bodyWord, be4], by simp [be4, Config.bodyMax]⟩

theorem acctNext (link : Link) (body) : Statement (.acctNext link body) := by
  intro _ f e
  obtain ⟨x, rfl, rfl⟩ := spell_some e
  exact ⟨by simp [decodeRequest, bodyWord, be4], by simp [be4, Config.bodyMax]⟩

theorem acctDelete (link : Link) (body) : Statement (.acctDelete link body) := by
  intro _ f e
  obtain ⟨x, rfl, rfl⟩ := spell_some e
  exact ⟨by simp [decodeRequest, bodyWord, be4], by simp [be4, Config.bodyMax]⟩

theorem priceWrite (link : Link) (body) : Statement (.priceWrite link body) := by
  intro h f e
  obtain ⟨x, rfl, rfl⟩ := spell_some e
  have h : priceWriteLengthOk x.values.length = true := h
  refine ⟨by simp [decodeRequest, bodyPriceWrite, h], ?_⟩
  simp [priceWriteLengthOk] at h
  simp [Config.bodyMax]
  omega

theorem priceRead (link : Link) (body) : Statement (.priceRead link body) := by
  intro _ f e
  obtain ⟨x, rfl, rfl⟩ := spell_some e
  exact ⟨by simp [decodeRequest, bodyPriceRead], by simp [Config.bodyMax]⟩

theorem priceSwap (link : Link) (body) : Statement (.priceSwap link body) := by
  intro _ f e
  obtain ⟨x, rfl, rfl⟩ := spell_some e
  exact ⟨by simp [decodeRequest, bodyByte], by simp [Config.bodyMax]⟩

theorem runAbort (link : Link) (body) : Statement (.runAbort link body) := by
  intro _ f e
  obtain ⟨x, rfl, rfl⟩ := spell_some e
  exact ⟨by simp [decodeRequest, bodyByte], by simp [Config.bodyMax]⟩

theorem captureHead (link : Link) (body) : Statement (.captureHead link body) := by
  intro _ f e
  obtain ⟨x, rfl, rfl⟩ := spell_some e
  exact ⟨by simp [decodeRequest, bodyUnit], by simp [Config.bodyMax]⟩

theorem captureAbandon (link : Link) (body) : Statement (.captureAbandon link body) := by
  intro _ f e
  obtain ⟨x, rfl, rfl⟩ := spell_some e
  exact ⟨by simp [decodeRequest, bodyCaptureAbandon, be4], by simp [be4, Config.bodyMax]⟩

theorem referralFetch (link : Link) (body) : Statement (.referralFetch link body) := by
  intro _ f e
  obtain ⟨x, rfl, rfl⟩ := spell_some e
  exact ⟨by simp [decodeRequest, bodyUnit], by simp [Config.bodyMax]⟩

theorem referralList (link : Link) (body) : Statement (.referralList link body) := by
  intro _ f e
  obtain ⟨x, rfl, rfl⟩ := spell_some e
  exact ⟨by simp [decodeRequest, bodyUnit], by simp [Config.bodyMax]⟩

theorem referralReply (link : Link) (body) : Statement (.referralReply link body) := by
  intro _ f e
  obtain ⟨x, rfl, rfl⟩ := spell_some e
  exact ⟨by simp [decodeRequest, bodyReferralReply, be4], by simp [be4, Config.bodyMax]⟩

theorem logRead (link : Link) (body) : Statement (.logRead link body) := by
  intro _ f e
  obtain ⟨x, rfl, rfl⟩ := spell_some e
  exact ⟨by simp [decodeRequest, bodyUnit], by simp [Config.bodyMax]⟩

theorem logRelease (link : Link) (body) : Statement (.logRelease link body) := by
  intro _ f e
  obtain ⟨x, rfl, rfl⟩ := spell_some e
  exact ⟨by simp [decodeRequest, bodyHalf, be2], by simp [be2, Config.bodyMax]⟩

theorem logStatus (link : Link) (body) : Statement (.logStatus link body) := by
  intro _ f e
  obtain ⟨x, rfl, rfl⟩ := spell_some e
  exact ⟨by simp [decodeRequest, bodyUnit], by simp [Config.bodyMax]⟩

theorem meterRead (link : Link) (body) : Statement (.meterRead link body) := by
  intro _ f e
  obtain ⟨x, rfl, rfl⟩ := spell_some e
  exact ⟨by simp [decodeRequest, bodyByte], by simp [Config.bodyMax]⟩

theorem linkStats (link : Link) (body) : Statement (.linkStats link body) := by
  intro _ f e
  obtain ⟨x, rfl, rfl⟩ := spell_some e
  exact ⟨by simp [decodeRequest, bodyLinkStats], by simp [Config.bodyMax]⟩

theorem stationSetNone (link : Link) (body) : Statement (.stationSetNone link body) := by
  intro h f e
  obtain ⟨x, rfl, rfl⟩ := spell_some e
  obtain ⟨station, action, flags⟩ := x
  have h : ([1, 2, 3, 4, 5] : List Byte).contains action = false := by simpa [Instr.wf, Body.all, stationSetNoneActionOk] using h
  simp only [List.contains_cons, List.contains_nil, Bool.or_eq_false_iff, beq_eq_false_iff_ne] at h
  obtain ⟨h1, h2, h3, h4, h5, _⟩ := h
  cases flags
  · exact ⟨by
      change stationSetOf link station action none = _
      rw [stationSetOf, if_neg h1, if_neg h2, if_neg h3, if_neg h4, if_neg h5], by simp [Config.bodyMax]⟩
  · exact ⟨by
      change stationSetOf link station action (some _) = _
      rw [stationSetOf, if_neg h1, if_neg h2, if_neg h3, if_neg h4, if_neg h5], by simp [Config.bodyMax]⟩

theorem stationSetEnable (link : Link) (body) : Statement (.stationSetEnable link body) := by
  intro _ f e
  obtain ⟨x, rfl, rfl⟩ := spell_some e
  obtain ⟨station, flags⟩ := x
  cases flags <;> exact ⟨by simp [decodeRequest, decodeStationSet, stationSetOf, writeStationSet],
    by simp [writeStationSet, Config.bodyMax]⟩

theorem stationSetDisable (link : Link) (body) : Statement (.stationSetDisable link body) := by
  intro _ f e
  obtain ⟨x, rfl, rfl⟩ := spell_some e
  obtain ⟨station, flags⟩ := x
  cases flags <;> exact ⟨by simp [decodeRequest, decodeStationSet, stationSetOf, writeStationSet],
    by simp [writeStationSet, Config.bodyMax]⟩

theorem stationSetHold (link : Link) (body) : Statement (.stationSetHold link body) := by
  intro _ f e
  obtain ⟨x, rfl, rfl⟩ := spell_some e
  obtain ⟨station, flags⟩ := x
  cases flags <;> exact ⟨by simp [decodeRequest, decodeStationSet, stationSetOf, writeStationSet],
    by simp [writeStationSet, Config.bodyMax]⟩

theorem stationSetRelease (link : Link) (body) : Statement (.stationSetRelease link body) := by
  intro _ f e
  obtain ⟨x, rfl, rfl⟩ := spell_some e
  obtain ⟨station, flags⟩ := x
  cases flags <;> exact ⟨by simp [decodeRequest, decodeStationSet, stationSetOf, writeStationSet],
    by simp [writeStationSet, Config.bodyMax]⟩

theorem stationSetOff (link : Link) (body) : Statement (.stationSetOff link body) := by
  intro _ f e
  obtain ⟨x, rfl, rfl⟩ := spell_some e
  obtain ⟨station, flags⟩ := x
  cases flags <;> exact ⟨by simp [decodeRequest, decodeStationSet, stationSetOf, writeStationSet],
    by simp [writeStationSet, Config.bodyMax]⟩

theorem stationRead (link : Link) (body) : Statement (.stationRead link body) := by
  intro _ f e
  obtain ⟨x, rfl, rfl⟩ := spell_some e
  exact ⟨by simp [decodeRequest, bodyByte], by simp [Config.bodyMax]⟩

theorem attnExchange (link : Link) (body) : Statement (.attnExchange link body) := by
  intro _ f e
  obtain ⟨x, rfl, rfl⟩ := spell_some e
  exact ⟨by simp [decodeRequest, bodyWord, be4], by simp [be4, Config.bodyMax]⟩

theorem setParam (link : Link) (body) : Statement (.setParam link body) := by
  intro _ f e
  obtain ⟨x, rfl, rfl⟩ := spell_some e
  exact ⟨by simp [decodeRequest, bodySetParam, be4], by simp [be4, Config.bodyMax]⟩

theorem getParam (link : Link) (body) : Statement (.getParam link body) := by
  intro _ f e
  obtain ⟨x, rfl, rfl⟩ := spell_some e
  exact ⟨by simp [decodeRequest, bodyByte], by simp [Config.bodyMax]⟩

theorem identify (link : Link) (body) : Statement (.identify link body) := by
  intro _ f e
  obtain ⟨x, rfl, rfl⟩ := spell_some e
  exact ⟨by simp [decodeRequest, bodyUnit], by simp [Config.bodyMax]⟩

theorem teardown (link : Link) (body) : Statement (.teardown link body) := by
  intro _ f e
  obtain ⟨x, rfl, rfl⟩ := spell_some e
  exact ⟨by simp [decodeRequest, bodyUnit], by simp [Config.bodyMax]⟩

theorem warmReset (link : Link) (body) : Statement (.warmReset link body) := by
  intro _ f e
  obtain ⟨x, rfl, rfl⟩ := spell_some e
  exact ⟨by simp [decodeRequest, bodyUnit], by simp [Config.bodyMax]⟩

theorem invalidRequestCode (link : Link) (code : Byte) : Statement (.invalidRequestCode link code) := by
  intro h f e
  cases e
  refine ⟨?_, by simp [Config.bodyMax]⟩
  have h : isRequestCode code = false := by simpa [Instr.wf] using h
  have no : ∀ n : Nat, isRequestCode (BitVec.ofNat 8 n) = true → code.toNat ≠ n := by
    intro n ok e
    rw [← e, BitVec.ofNat_toNat, BitVec.setWidth_eq, h] at ok
    cases ok
  simp only [decodeRequest]
  split
  all_goals first
    | rfl
    | exact absurd (by assumption) (no _ (by decide))

theorem frameDiscarded (x0) (x1) : Statement (.frameDiscarded x0 x1) := by
  intro _ f e
  cases e

theorem receiveGapTimeout (x0) : Statement (.receiveGapTimeout x0) := by
  intro _ f e
  cases e

theorem selectReleased : Statement (.selectReleased) := by
  intro _ f e
  cases e

theorem powerOn : Statement (.powerOn) := by
  intro _ f e
  cases e

theorem resetPin : Statement (.resetPin) := by
  intro _ f e
  cases e

theorem timebaseTick : Statement (.timebaseTick) := by
  intro _ f e
  cases e

theorem runIdleTimerExpiry (x0) : Statement (.runIdleTimerExpiry x0) := by
  intro _ f e
  cases e

theorem jamTimerExpiry (x0) : Statement (.jamTimerExpiry x0) := by
  intro _ f e
  cases e

theorem lostTimerExpiry (x0) : Statement (.lostTimerExpiry x0) := by
  intro _ f e
  cases e

theorem silenceTimerExpiry (x0) : Statement (.silenceTimerExpiry x0) := by
  intro _ f e
  cases e

theorem cardIdleTimerExpiry (x0) : Statement (.cardIdleTimerExpiry x0) := by
  intro _ f e
  cases e

theorem referralTimeout (x0) : Statement (.referralTimeout x0) := by
  intro _ f e
  cases e

theorem captureStallTimingExpiry : Statement (.captureStallTimingExpiry) := by
  intro _ f e
  cases e

theorem responseClockedOut : Statement (.responseClockedOut) := by
  intro _ f e
  cases e

end Sys2Proof.Laws.Coded
end

