-- ==== Sys2Proof/Laws/Requests.lean ====
section
/-! SUPPORT. A request at its port and its block: what exec answers for a request that its port hands on, and the ranges of the fields
that requests read (R1, R45, R137, R156, R160). -/

namespace Sys2Proof.Machine

/-! ### Ranges of account numbers (R1) -/

theorem isOrdinary_iff (n : Word) : isOrdinary n = true ↔ 1 ≤ n.toNat ∧ n.toNat ≤ 0xFFFFFFEF := by
  unfold isOrdinary
  rw [Bool.and_eq_true, decide_eq_true_iff, decide_eq_true_iff]
  exact and_congr_right fun _ => Nat.lt_succ_iff

theorem isCardNumber_iff (n : Word) : isCardNumber n = true ↔ 0xFFFFFFF0 ≤ n.toNat ∧ n.toNat ≤ 0xFFFFFFF7 := by
  unfold isCardNumber
  rw [Bool.and_eq_true, decide_eq_true_iff, decide_eq_true_iff]
  exact and_congr_right fun _ => Nat.lt_succ_iff

theorem isNoNumber_iff (n : Word) : isNoNumber n = true ↔ n.toNat = 0 ∨ 0xFFFFFFF8 ≤ n.toNat := by
  unfold isNoNumber
  rw [Bool.or_eq_true, beq_iff_eq, decide_eq_true_iff]
  rfl

theorem cardStation_cardNumber (st : Station) : cardStation (cardNumber st) = st := by
  revert st
  decide

/-! ### Enumerated fields -/

theorem readStation_some {x : Byte} {st : Station} (h : x.toNat = st.val) : readStation x = some st := by
  unfold readStation
  rw [dif_pos (by omega)]
  exact congrArg some (Fin.ext h)

theorem readStation_none {x : Byte} (h : 7 < x.toNat) : readStation x = none := by
  unfold readStation
  rw [dif_neg (by omega)]

theorem readTier_some {x : Byte} {tier : Tier} (h : x.toNat = tier.val) : readTier x = some tier := by
  unfold readTier
  rw [dif_pos (by omega)]
  exact congrArg some (Fin.ext h)

theorem readTier_none {x : Byte} (h : 3 < x.toNat) : readTier x = none := by
  unfold readTier
  rw [dif_neg (by omega)]

theorem readTemplate_some {f : LoadFields} {t : Template} (media : f.media.toNat = t.media.val) (colour : f.colour.toNat = t.colour.code)
    (sides : f.sides.toNat = t.sides.code) : readTemplate f = some t := by
  obtain ⟨m, c, d⟩ := t
  have e1 : readMedia f.media = some m := by
    unfold readMedia
    simp only at media
    rw [dif_pos (by omega)]
    exact congrArg some (Fin.ext media)
  have e2 : readColour f.colour = some c := by
    cases c with
    | mono => simp [readColour, show f.colour = 0 from BitVec.eq_of_toNat_eq colour]
    | colour => simp [readColour, show f.colour = 1 from BitVec.eq_of_toNat_eq colour]
  have e3 : readSides f.sides = some d := by
    cases d with
    | simplex => simp [readSides, show f.sides = 0 from BitVec.eq_of_toNat_eq sides]
    | duplex => simp [readSides, show f.sides = 1 from BitVec.eq_of_toNat_eq sides]
  simp [readTemplate, e1, e2, e3]

/-! ### The port -/

theorem countUp_eq (n : Nat) : countUp n = min 65535 (n + 1) := by
  unfold countUp Config.counterStop
  split <;> omega

theorem State.port_setPort (s : State) (link : Link) (p : Port) : (s.setPort link p).port link = p := by
  cases link <;> simp [State.setPort, Io.setPort, State.port, Io.port]

theorem State.setPort_port (s : State) (link : Link) : s.setPort link (s.port link) = s := by
  cases link <;> simp [State.setPort, Io.setPort, State.port, Io.port]

theorem State.setPort_setPort (s : State) (link : Link) (p q : Port) : (s.setPort link p).setPort link q = s.setPort link q := by
  cases link <;> simp [State.setPort, Io.setPort]

/-- A request on a link of its kind, in a receiver that is not skipping, is taken by its block and answered (R156). -/
theorem State.request_of {α : Type} (s : State) (link : Link) (code : Byte) (kind : LinkKind) (fields : α) (take : α → State → Taken)
    (heard : s.deaf link = false) (fits : link.kind = kind) :
    s.request link code kind (.of fields) take = (take fields (s.handOn link)).1.respond link (take fields (s.handOn link)).2 := by
  simp [State.request, heard, fits, Taken.reply]

/-! ### Bytes heard (R153) -/

/-- Bytes heard together are the same bytes heard one after another (R153; log 2). -/
theorem onFrameDiscarded_cons (link : Link) (x : LineByte) (rest : List LineByte) (s : State) :
    onFrameDiscarded link (x :: rest) s = onFrameDiscarded link rest (onFrameDiscarded link [x] s) := rfl

/-- A receiver that has gone to HUNT goes there again when its frame is taken (R153). -/
theorem State.validFrame_hunting (s : State) (link : Link) : (s.setReceiver link .hunt).validFrame link = s.validFrame link := by
  have again : (s.setReceiver link .hunt).setReceiver link .hunt = s.setReceiver link .hunt := by
    simp [State.setReceiver, State.setPort_setPort, State.port_setPort]
  cases link <;> simp only [State.validFrame, again]

theorem State.deaf_hunting (s : State) (link : Link) : (s.setReceiver link .hunt).deaf link = false := by
  simp [State.deaf, State.setReceiver, State.port_setPort]

/-- A request is the same from a receiver that collected its frame as from one that hunts again (R153, R156; log 1). -/
theorem State.request_hunting {α : Type} {s : State} {link : Link} (code : Byte) (kind : LinkKind) (body : Body α)
    (take : α → State → Taken) (heard : s.deaf link = false) :
    (s.setReceiver link .hunt).request link code kind body take = s.request link code kind body take := by
  simp only [State.request, heard, State.deaf_hunting, State.validFrame_hunting, State.handOn]
  cases body <;> rfl

/-- The frame that a receiver hands on has the effect of its request's row (R153, R156; log 1). -/
theorem takeRequest_hunting {s : State} {link : Link} (code : Byte) (body : List Byte) (heard : s.deaf link = false) :
    exec (decodeRequest link code body) s = .next (takeRequest (decodeRequest link code body) (s.setReceiver link .hunt)) := by
  unfold decodeRequest decodeStationSet stationSetOf
  repeat' split
  all_goals first
    | exact congrArg Host.Outcome.next (State.request_hunting _ _ _ _ heard).symm
    | exact congrArg Host.Outcome.next
        (by simp [takeRequest, onInvalidRequestCode, heard, State.deaf_hunting, State.validFrame_hunting])
/-! ### The M-link's data-out line (R151) -/

theorem State.dataOut_idle {s : State} (h : s.io.mWaiting = none) : s.dataOut = 0x00 := by
  unfold State.dataOut
  rw [h]

theorem State.dataOut_waiting {s : State} {r : Response} (h : s.io.mWaiting = some r) :
    s.dataOut = (r.bytes .m).getD s.io.mSent 0x00 := by
  unfold State.dataOut
  rw [h]

theorem State.clockedOut_cons (s : State) (x : LineByte) (rest : List LineByte) :
    s.clockedOut (x :: rest) = s.dataOut :: (State.hearByte .m s x).clockedOut rest := rfl

/-- A filler under a waiting response moves the response alone: the receiver goes on hunting (R151, R153). -/
theorem State.hearByte_filler {s : State} {r : Response} {x : Byte} (waiting : s.io.mWaiting = some r)
    (hunting : s.io.mPort.receiver = .hunt) (filler : x ≠ startByte) : State.hearByte .m s ⟨x, false⟩ = s.clockByte x := by
  have port : (s.clockByte x).io.mPort = s.io.mPort := by
    unfold State.clockByte
    rw [waiting]
    simp only
    repeat' split
    all_goals rfl
  have receiver : ((s.clockByte x).port .m).receiver = .hunt := by simp [State.port, Io.port, port, hunting]
  have same : { (s.clockByte x).port .m with receiver := Receiver.hunt } = (s.clockByte x).port .m := by rw [← receiver]
  unfold State.hearByte
  simp [receiver, receiveByte, filler, State.received, State.setReceiver, same, State.setPort_port]

/-! ### Answers -/

/-- Two answered states are equal where the states and the responses are. -/
theorem next_respond {s t : State} {r q : Response} {link : Link} (states : s = t) (responses : r = q) :
    (Host.Outcome.next (s.respond link r) : Host.Outcome State Fault Refusal) = .next (t.respond link q) := by
  rw [states, responses]

theorem State.handOn_serves {s : State} {st : Station} (link : Link) (h : s.serves st) : (s.handOn link).serves st := by
  unfold State.serves at *
  rw [State.handOn_station_state]
  exact h

theorem State.admits_iff (s : State) : s.admits = true ↔ s.reserved < 256 - s.log.length := decide_eq_true_iff

theorem State.admits_not (s : State) : s.admits = false ↔ 256 - s.log.length ≤ s.reserved := by
  rw [← Bool.not_eq_true, State.admits_iff, Nat.not_lt]

theorem State.handOn_admits (s : State) (link : Link) : (s.handOn link).admits = s.admits := by
  unfold State.admits State.freeSpace
  simp only [State.handOn_log, State.handOn_reserved]

theorem State.handOn_runIdle (s : State) (link : Link) (st : Station) : (s.handOn link).runIdle st = (s.job st).isNone := by
  unfold State.runIdle State.job
  simp only [State.handOn_runs]

theorem State.handOn_sessionOpen (s : State) (link : Link) (st : Station) :
    (s.handOn link).sessionOpen st = s.sessionOpen st := by
  unfold State.sessionOpen
  simp only [State.handOn_sessions]

theorem State.handOn_isRemote (s : State) (link : Link) (n : Word) : (s.handOn link).isRemote n = s.isRemote n := by
  unfold State.isRemote
  simp only [State.handOn_params]

theorem State.handOn_mirrorOf (s : State) (link : Link) (n : Word) : (s.handOn link).mirrorOf n = s.mirrorOf n := by
  unfold State.mirrorOf
  simp only [State.handOn_mirrors]

theorem State.handOn_houseRecord (s : State) (link : Link) (n : Word) : (s.handOn link).houseRecord n = s.houseRecord n := by
  unfold State.houseRecord
  simp only [State.handOn_house]

/-- After a close the station's run state code reads IDLE (R67). -/
theorem State.closeJob_runCode (s : State) (st : Station) (j : Job) (reason : CloseReason) : (s.closeJob st j reason).runCode st = 0 := by
  simp [State.runCode, State.job, State.closeJob, State.drainTest, State.latch, State.stopRunTimers, State.dropReferrals,
    State.freeMirror, State.unreserve, State.idleRun, codeOr0]

/-- After a return from REFERRAL the station's run state code reads IDLE (R53). -/
theorem State.returnJob_runCode (s : State) (st : Station) (j : Job) (outcome : LastOutcome) :
    (s.returnJob st j outcome).runCode st = 0 := by
  simp [State.runCode, State.job, State.returnJob, State.drainTest, State.stopRunTimers, State.setRun, Run.idle, codeOr0]

end Sys2Proof.Machine
end

