-- ==== Sys2Proof/Laws/Sheets.lean ====
section
/-! SUPPORT. How the shared operations move a run, its in-path list and the referral queue (R38, R39, R72, R73, R119, R120). -/

namespace Sys2Proof.Machine

/-! ### One station among eight -/

/-- The job of a station after one context is replaced. -/
theorem State.job_set {s t : State} {st : Station} {r : Run} (h : t.runs = s.runs.set st r) (st' : Station) :
    t.job st' = if st' = st then r.job else s.job st' := by
  unfold State.job
  rw [h]
  by_cases e : st' = st
  · subst e; simp
  · have : (st : Nat) ≠ st' := fun x => e (Fin.ext x.symm)
    simp [e, this]

/-- The in-path list of a station after one list is replaced. -/
theorem State.path_set {s t : State} {st : Station} {p : List PathEntry} (h : t.paths = s.paths.set st p) (st' : Station) :
    t.paths[st'] = if st' = st then p else s.paths[st'] := by
  rw [h]
  by_cases e : st' = st
  · subst e; simp
  · have : (st : Nat) ≠ st' := fun x => e (Fin.ext x.symm)
    simp [e, this]

/-! ### The law of one run through its changes -/

theorem Job.Law.nil_of_new {j : Job} (h₁ : j.granted = 0) (h₂ : j.delivered = 0) (h₃ : j.credited = 0) (h₄ : j.disputed = 0)
    (h₅ : j.charge = 0) (h₆ : j.settled = 0) (h₇ : j.hold = 0) : j.Law [] where
  room := Nat.zero_le _
  rising := List.Pairwise.nil
  ours := by simp
  limit := by rw [h₁]; exact Nat.zero_le _
  fates := by simp [h₁, h₂, h₃, h₄]
  allowance := by rw [h₃]; exact Nat.zero_le _
  jammed := fun _ => rfl
  referral := fun _ => ⟨rfl, h₁, h₅, h₆, h₇⟩
  settledBound := by simp [pathCharge, h₅, h₆]
  covered := by simp [h₅]

/-- The law looks at no timer, no jam count, no last burst and no count since the interim; a state that is neither JAMMED nor
REFERRAL may replace any other. -/
theorem Job.Law.restate {j k : Job} {path : List PathEntry} (h : j.Law path) (hj : k.state = .jammed → path = [])
    (hr : k.state ≠ .referral) (h₁ : k.granted = j.granted) (h₂ : k.delivered = j.delivered) (h₃ : k.credited = j.credited)
    (h₄ : k.disputed = j.disputed) (h₅ : k.charge = j.charge) (h₆ : k.settled = j.settled) (h₇ : k.hold = j.hold)
    (h₈ : k.jamAllowance = j.jamAllowance) : k.Law path where
  room := h.room
  rising := h.rising
  ours := by rw [h₁]; exact h.ours
  limit := by rw [h₁]; exact h.limit
  fates := by rw [h₁, h₂, h₃, h₄]; exact h.fates
  allowance := by rw [h₃, h₈]; exact h.allowance
  jammed := hj
  referral := fun e => absurd e hr
  settledBound := by rw [h₅, h₆]; exact h.settledBound
  covered := by rw [h₅, h₆, h₇]; exact h.covered

theorem pathCharge_append (p q : List PathEntry) : pathCharge (p ++ q) = pathCharge p + pathCharge q := by
  simp [pathCharge]

theorem pathCharge_drop_le (p : List PathEntry) (n : Nat) : pathCharge (p.drop n) ≤ pathCharge p := by
  conv => rhs; rw [← List.take_append_drop n p, pathCharge_append]
  omega

/-- A covered sheet may be granted (R38, R57). -/
theorem Job.Law.grant {j : Job} {path : List PathEntry} (h : j.Law path) (hl : j.granted < Config.runLimit)
    (hp : path.length < Config.pathCapacity) (hs : j.state ≠ .jammed) (hr : j.state ≠ .referral) (mode : ColourMode)
    (k : SheetKind) (sides : Sides) (d grown : Nat) (hc : j.neededHold d ≤ j.hold + grown) :
    (j.grant mode d grown).Law (path ++ [⟨j.nextSeq, k, sides, d⟩]) where
  room := by simpa using hp
  rising := by
    rw [List.pairwise_append]
    refine ⟨h.rising, List.pairwise_singleton _ _, ?_⟩
    intro a ha b hb
    obtain rfl := List.mem_singleton.mp hb
    exact Nat.lt_succ_of_le (h.ours a ha).2
  ours := by
    intro e he
    rcases List.mem_append.mp he with he | he
    · exact ⟨(h.ours e he).1, Nat.le_succ_of_le (h.ours e he).2⟩
    · obtain rfl := List.mem_singleton.mp he
      exact ⟨Nat.succ_le_succ (Nat.zero_le _), Nat.le_refl _⟩
  limit := hl
  fates := by
    have := h.fates
    simp only [Job.grant, List.length_append, List.length_singleton]
    omega
  allowance := h.allowance
  jammed := fun e => absurd e hs
  referral := fun e => absurd e hr
  settledBound := by
    have := h.settledBound
    rw [pathCharge_append]
    simp only [Job.grant, pathCharge, List.map_cons, List.map_nil, List.sum_cons, List.sum_nil] at *
    omega
  covered := by
    have h₁ := h.settledBound
    have h₂ : (j.charge + d + 99) / 100 - j.settled ≤ j.hold + grown := hc
    simp only [Job.grant]
    omega

/-- Sheets brought out leave the list from its head (R76). -/
theorem Job.Law.deliver {j : Job} {path : List PathEntry} (h : j.Law path) (n k : Nat) :
    ({ j with delivered := j.delivered + (path.take n).length, sinceInterim := k } : Job).Law (path.drop n) where
  room := by
    have := h.room
    rw [List.length_drop]
    omega
  rising := h.rising.sublist (List.drop_sublist n path)
  ours := fun e he => h.ours e (List.mem_of_mem_drop he)
  limit := h.limit
  fates := by
    have h₁ := h.fates
    have h₂ : (path.take n).length + (path.drop n).length = path.length := by
      rw [← List.length_append, List.take_append_drop]
    show j.granted = j.delivered + (path.take n).length + j.credited + j.disputed + (path.drop n).length
    omega
  allowance := h.allowance
  jammed := fun e => by rw [h.jammed e, List.drop_nil]
  referral := fun e => by
    obtain ⟨h₁, h₂⟩ := h.referral e
    exact ⟨by rw [h₁, List.drop_nil], h₂⟩
  settledBound := by
    have h₁ := h.settledBound
    have h₂ := pathCharge_drop_le path n
    show pathCharge (path.drop n) + 100 * j.settled ≤ j.charge
    omega
  covered := h.covered

/-- An interim debit of the delivered charge keeps both bounds (R39). -/
theorem Job.Law.settle {j : Job} {path : List PathEntry} (h : j.Law path) (hr : j.state ≠ .referral) (n : Nat) :
    ({ j with settled := j.settled + j.unsettled path / 100, hold := j.hold - j.unsettled path / 100, sinceInterim := n } :
      Job).Law path where
  room := h.room
  rising := h.rising
  ours := h.ours
  limit := h.limit
  fates := h.fates
  allowance := h.allowance
  jammed := h.jammed
  referral := fun e => absurd e hr
  settledBound := by
    have h₁ := h.settledBound
    simp only [Job.unsettled]
    omega
  covered := by
    have h₁ := h.settledBound
    have h₂ := h.covered
    simp only [Job.unsettled]
    omega

/-- One lost sheet is credited back or disputed (R82). -/
theorem Job.Law.lose {j : Job} {e : PathEntry} {rest : List PathEntry} (h : j.Law (e :: rest)) : (j.lose e).Law rest := by
  have hs : j.state ≠ .jammed := fun x => by simpa using h.jammed x
  have hr : j.state ≠ .referral := fun x => by simpa using (h.referral x).1
  have h₁ := h.fates
  have h₂ := h.settledBound
  have h₃ := h.covered
  have h₄ := h.room
  simp only [List.length_cons, pathCharge, List.map_cons, List.sum_cons] at h₁ h₂ h₄
  unfold Job.lose
  split
  · rename_i hlt
    exact
      { room := by omega
        rising := (List.pairwise_cons.mp h.rising).2
        ours := fun x hx => h.ours x (List.mem_cons_of_mem _ hx)
        limit := h.limit
        fates := by dsimp only; omega
        allowance := hlt
        jammed := fun x => absurd x hs
        referral := fun x => absurd x hr
        settledBound := by simp only [pathCharge]; omega
        covered := by dsimp only; omega }
  · exact
      { room := by omega
        rising := (List.pairwise_cons.mp h.rising).2
        ours := fun x hx => h.ours x (List.mem_cons_of_mem _ hx)
        limit := h.limit
        fates := by dsimp only; omega
        allowance := h.allowance
        jammed := fun x => absurd x hs
        referral := fun x => absurd x hr
        settledBound := by simp only [pathCharge]; omega
        covered := h.covered }

theorem Job.Law.loseAll : ∀ {path : List PathEntry} {j : Job}, j.Law path → (j.loseAll path).Law []
  | [], _, h => h
  | e :: rest, j, h => by
    show ((j.lose e).loseAll rest).Law []
    exact Job.Law.loseAll (path := rest) h.lose

theorem Job.lose_state (j : Job) (e : PathEntry) : (j.lose e).state = j.state ∧ (j.lose e).account = j.account := by
  unfold Job.lose
  split <;> exact ⟨rfl, rfl⟩

theorem Job.loseAll_state : ∀ (path : List PathEntry) (j : Job),
    (j.loseAll path).state = j.state ∧ (j.loseAll path).account = j.account
  | [], _ => ⟨rfl, rfl⟩
  | e :: rest, j => by
    have h₁ := Job.loseAll_state rest (j.lose e)
    have h₂ := Job.lose_state j e
    exact ⟨h₁.1.trans h₂.1, h₁.2.trans h₂.2⟩

/-! ### The referral queue through its changes -/

theorem ReferralLaw_of_same {s t : State} (h : s.ReferralLaw) (hq : t.referrals = s.referrals)
    (hj : ∀ r ∈ s.referrals, t.job r.station = s.job r.station) : t.ReferralLaw where
  stations := by rw [hq]; exact h.stations
  ids := by rw [hq]; exact h.ids
  serves := by
    intro r hr
    rw [hq] at hr
    rw [hj r hr]
    exact h.serves r hr

/-- The job at one station changes and still serves its referral. -/
theorem ReferralLaw_of_job {s t : State} (h : s.ReferralLaw) (hq : t.referrals = s.referrals) {st : Station} {j k : Job}
    (hj : s.job st = some j) (ht : ∀ st', t.job st' = if st' = st then some k else s.job st') (ha : k.account = j.account)
    (hs : k.state = .referral ↔ j.state = .referral) : t.ReferralLaw where
  stations := by rw [hq]; exact h.stations
  ids := by rw [hq]; exact h.ids
  serves := by
    intro r hr
    rw [hq] at hr
    obtain ⟨m, h₁, h₂, h₃⟩ := h.serves r hr
    by_cases e : r.station = st
    · rw [e, hj] at h₁
      cases h₁
      exact ⟨k, by rw [ht, if_pos e], by rw [ha, h₂], by rw [hs]; exact h₃⟩
    · exact ⟨m, by rw [ht, if_neg e]; exact h₁, h₂, h₃⟩

/-- The referrals of one station leave the queue, and the other stations keep their jobs. -/
theorem ReferralLaw_of_drop {s t : State} (h : s.ReferralLaw) {st : Station}
    (hq : t.referrals = s.referrals.filter (fun r => r.station != st)) (ht : ∀ st', st' ≠ st → t.job st' = s.job st') :
    t.ReferralLaw where
  stations := by rw [hq]; exact h.stations.sublist (List.filter_sublist.map _)
  ids := by rw [hq]; exact h.ids.sublist (List.filter_sublist.map _)
  serves := by
    intro r hr
    rw [hq] at hr
    obtain ⟨hr, hne⟩ := List.mem_filter.mp hr
    rw [ht _ (by simpa using hne)]
    exact h.serves r hr

/-- One referral leaves the queue by its id, which no other holds, and the other stations keep their jobs. -/
theorem ReferralLaw_of_remove {s t : State} (h : s.ReferralLaw) {r : Referral} (hr : r ∈ s.referrals)
    (hq : t.referrals = s.referrals.filter (fun x => x.id != r.id)) (ht : ∀ st', st' ≠ r.station → t.job st' = s.job st') :
    t.ReferralLaw where
  stations := by rw [hq]; exact h.stations.sublist (List.filter_sublist.map _)
  ids := by rw [hq]; exact h.ids.sublist (List.filter_sublist.map _)
  serves := by
    intro x hx
    rw [hq] at hx
    obtain ⟨hx, hne⟩ := List.mem_filter.mp hx
    have hst : x.station ≠ r.station := by
      intro e
      have : x = r := List.inj_on_of_nodup_map h.stations hx hr e
      rw [this] at hne
      simp at hne
    rw [ht _ hst]
    exact h.serves x hx

/-- A referral joins the queue for a station that had none, under an id that none holds. -/
theorem ReferralLaw_of_create {s t : State} (h : s.ReferralLaw) {r : Referral} (hq : t.referrals = s.referrals ++ [r])
    (hst : ∀ x ∈ s.referrals, x.station ≠ r.station) (hid : ∀ x ∈ s.referrals, x.id ≠ r.id)
    (ht : ∀ st', st' ≠ r.station → t.job st' = s.job st')
    (hj : ∃ j, t.job r.station = some j ∧ j.account = r.account ∧ (r.kind = .opening ↔ j.state = .referral)) :
    t.ReferralLaw where
  stations := by
    rw [hq, List.map_append, List.nodup_append]
    refine ⟨h.stations, List.nodup_singleton _, ?_⟩
    intro a ha b hb
    obtain ⟨x, hx, rfl⟩ := List.mem_map.mp ha
    simp at hb
    rw [hb]
    exact hst x hx
  ids := by
    rw [hq, List.map_append, List.nodup_append]
    refine ⟨h.ids, List.nodup_singleton _, ?_⟩
    intro a ha b hb
    obtain ⟨x, hx, rfl⟩ := List.mem_map.mp ha
    simp at hb
    rw [hb]
    exact hid x hx
  serves := by
    intro x hx
    rw [hq] at hx
    rcases List.mem_append.mp hx with hx | hx
    · rw [ht _ (hst x hx)]
      exact h.serves x hx
    · obtain rfl := List.mem_singleton.mp hx
      exact hj

/-- The queue holds at most eight referrals, one per station (R119). -/
theorem ReferralLaw_length {s : State} (h : s.ReferralLaw) : s.referrals.length ≤ 8 := by
  have := List.Nodup.length_le_card h.stations
  simpa using this

/-! ### The next referral id (R120) -/

/-- The ids tried from an id onward. -/
def idsFrom : Nat → Nat → List Nat
  | 0, i => [i]
  | k + 1, i => i :: idsFrom k (idAfter i)

theorem freeId_all {held : List Nat} : ∀ {k i : Nat}, freeId held k i ∈ held → ∀ x ∈ idsFrom k i, x ∈ held
  | 0, i, h, x, hx => by
    simp [idsFrom] at hx
    rw [hx]
    exact h
  | k + 1, i, h, x, hx => by
    unfold freeId at h
    split at h
    · rename_i hc
      rcases List.mem_cons.mp hx with e | hx
      · rw [e]; simpa using hc
      · exact freeId_all h x hx
    · rename_i hc
      exact absurd (by simpa using h) (by simpa using hc)

theorem idsFrom_length : ∀ k i, (idsFrom k i).length = k + 1
  | 0, _ => rfl
  | k + 1, i => by simp [idsFrom, idsFrom_length k]

theorem idsFrom_spread : ∀ {k i x : Nat}, x ∈ idsFrom k i → (i ≤ x ∧ x ≤ i + k) ∨ (1 ≤ x ∧ x ≤ k ∧ 255 ≤ i + k - x)
  | 0, i, x, h => by
    simp [idsFrom] at h
    omega
  | k + 1, i, x, h => by
    rcases List.mem_cons.mp h with e | h
    · omega
    · have := idsFrom_spread h
      unfold idAfter Config.referralIdMax at this
      split at this <;> omega

theorem idsFrom_nodup : ∀ {k i : Nat}, k ≤ 8 → (idsFrom k i).Nodup
  | 0, i, _ => List.nodup_singleton _
  | k + 1, i, hk => by
    refine List.nodup_cons.mpr ⟨?_, idsFrom_nodup (by omega)⟩
    intro h
    have := idsFrom_spread h
    unfold idAfter Config.referralIdMax at this
    split at this <;> omega

/-- `freeId` steps past held ids alone (R120). -/
theorem freeId_steps (held : List Nat) : ∀ k i : Nat,
    ∃ steps, freeId held k i = Nat.repeat idAfter steps i ∧ ∀ m < steps, Nat.repeat idAfter m i ∈ held
  | 0, i => ⟨0, rfl, by simp⟩
  | k + 1, i => by
    unfold freeId
    split
    · rename_i h
      obtain ⟨n, e, past⟩ := freeId_steps held k (idAfter i)
      have shift : ∀ m, Nat.repeat idAfter m (idAfter i) = Nat.repeat idAfter (m + 1) i := by
        intro m
        induction m with
        | zero => rfl
        | succ m ih => exact congrArg idAfter ih
      refine ⟨n + 1, by rw [e, shift], fun m hm => ?_⟩
      cases m with
      | zero => simpa [Nat.repeat] using h
      | succ m => exact shift m ▸ past m (by omega)
    · exact ⟨0, rfl, by simp⟩

/-- The id the next referral takes is held by none in the queue (R120). -/
theorem nextReferralId_free {s : State} (h : s.ReferralLaw) : ∀ x ∈ s.referrals, x.id ≠ s.nextReferralId := by
  intro x hx e
  have hm : s.nextReferralId ∈ s.referrals.map (·.id) := List.mem_map.mpr ⟨x, hx, e⟩
  have hall := freeId_all (held := s.referrals.map (·.id)) (k := s.referrals.length) (i := s.referralNextId) hm
  have hn := idsFrom_nodup (k := s.referrals.length) (i := s.referralNextId) (ReferralLaw_length h)
  have hle := (List.subperm_of_subset hn hall).length_le
  rw [idsFrom_length] at hle
  simp at hle

end Sys2Proof.Machine
end

