-- ==== Sys2Proof/Laws/SheetSteps.lean ====
section
/-! SUPPORT. The owning blocks keep the laws of the sheet path and the referral queue (R38, R39, R72, R73, R119, R120). -/

namespace Sys2Proof.Machine

theorem State.SheetLaw.of_same {s t : State} (h : s.SheetLaw) (hr : t.runs = s.runs) (hp : t.paths = s.paths)
    (hq : t.referrals = s.referrals) (hn : t.params = s.params) : t.SheetLaw where
  step := by rw [hn]; exact h.step
  runs := by
    intro st
    have := h.runs st
    unfold State.RunLaw State.job at *
    rw [hr, hp]
    exact this
  referrals := ReferralLaw_of_same h.referrals hq (fun r _ => by unfold State.job; rw [hr])

/-- The law of every run after one context and one list are replaced. -/
theorem RunLaw_set {s t : State} (h : ∀ st, s.RunLaw st) {st : Station} {r : Run} {p : List PathEntry}
    (hr : t.runs = s.runs.set st r) (hp : t.paths = s.paths.set st p)
    (law : match r.job with | none => p = [] | some j => j.Law p) : ∀ st, t.RunLaw st := by
  intro st'
  have := h st'
  unfold State.RunLaw at *
  rw [State.job_set hr, State.path_set hp]
  by_cases e : st' = st
  · simp only [e, if_true]
    exact law
  · simp only [e, if_false]
    exact this

theorem paths_same (s : State) (st : Station) : s.paths = s.paths.set st s.paths[st] := by
  simp

/-- The law after the job of an open run is replaced. -/
theorem State.SheetLaw.of_job {s t : State} (h : s.SheetLaw) {st : Station} {j k : Job} {o : LastOutcome} {p : List PathEntry}
    (hj : s.job st = some j) (hr : t.runs = s.runs.set st ⟨some k, o⟩) (hp : t.paths = s.paths.set st p)
    (hq : t.referrals = s.referrals) (hn : t.params = s.params) (law : k.Law p) (ha : k.account = j.account)
    (hs : k.state = .referral ↔ j.state = .referral) : t.SheetLaw where
  step := by rw [hn]; exact h.step
  runs := RunLaw_set h.runs hr hp law
  referrals := ReferralLaw_of_job h.referrals hq hj (State.job_set hr) ha hs

/-- The law after a run becomes IDLE with an empty list and its station's referral out of the queue. -/
theorem State.SheetLaw.of_idle {s t : State} (h : s.SheetLaw) {st : Station} {o : LastOutcome}
    (hr : t.runs = s.runs.set st ⟨none, o⟩) (hp : t.paths = s.paths.set st [])
    (hq : t.referrals = s.referrals.filter (fun r => r.station != st)) (hn : t.params = s.params) : t.SheetLaw where
  step := by rw [hn]; exact h.step
  runs := RunLaw_set h.runs hr hp rfl
  referrals := ReferralLaw_of_drop h.referrals hq (fun st' hne => by rw [State.job_set hr, if_neg hne])

/-- The law of an open run. -/
theorem State.SheetLaw.law {s : State} (h : s.SheetLaw) {st : Station} {j : Job} (hj : s.job st = some j) : j.Law s.paths[st] := by
  have := h.runs st
  unfold State.RunLaw at this
  rw [hj] at this
  exact this

theorem State.SheetLaw.path_of_idle {s : State} (h : s.SheetLaw) {st : Station} (hj : s.job st = none) : s.paths[st] = [] := by
  have := h.runs st
  unfold State.RunLaw at this
  rw [hj] at this
  exact this

/-! ### Loading -/

theorem State.SheetLaw.openRun {s : State} (h : s.SheetLaw) {st : Station} (hi : s.runIdle st = true)
    (n : Word) (k : SlotKind) (t : Tier) (bank : BankName) (template : Template) :
    (s.openRun st n k t bank template).SheetLaw := by
  have hj := State.job_none_of_idle hi
  have hp := h.path_of_idle hj
  have hr : (s.openRun st n k t bank template).runs =
      s.runs.set st ⟨some (s.newJob .active n k t bank template (some s.params.runIdle)), .none⟩ := by simp [State.openRun]
  refine ⟨by simpa [State.openRun] using h.step, ?_, ?_⟩
  · refine RunLaw_set h.runs hr (p := []) ?_ (Job.Law.nil_of_new rfl rfl rfl rfl rfl rfl rfl)
    rw [← hp]
    simp [State.openRun]
  · refine ReferralLaw_of_same h.referrals (by simp [State.openRun]) ?_
    intro r hmem
    rw [State.job_set hr, if_neg]
    intro e
    obtain ⟨j, hj', _⟩ := h.referrals.serves r hmem
    rw [e, hj] at hj'
    cases hj'

theorem State.SheetLaw.openReferral {s : State} (h : s.SheetLaw) {st : Station} (hi : s.runIdle st = true)
    (n : Word) (bank : BankName) (template : Template) : (s.openReferral st n bank template).SheetLaw := by
  have hj := State.job_none_of_idle hi
  have hp := h.path_of_idle hj
  have hr : (s.openReferral st n bank template).runs =
      s.runs.set st ⟨some (s.newJob .referral n .mirror 0 bank template none), .none⟩ := by simp [State.openReferral]
  refine ⟨by simpa [State.openReferral] using h.step, ?_, ?_⟩
  · refine RunLaw_set h.runs hr (p := []) ?_ (Job.Law.nil_of_new rfl rfl rfl rfl rfl rfl rfl)
    rw [← hp]
    simp [State.openReferral]
  · refine ReferralLaw_of_create h.referrals
      (r := ⟨s.nextReferralId, .opening, st, n, s.params.referralOpen, .waiting, s.params.referralTimeout⟩)
      (by simp [State.openReferral]; rfl) ?_ (nextReferralId_free h.referrals) ?_ ?_
    · intro x hx e
      obtain ⟨j, hj', _⟩ := h.referrals.serves x hx
      rw [show x.station = st from e, hj] at hj'
      cases hj'
    · intro st' hne
      rw [State.job_set hr, if_neg hne]
    · exact ⟨_, by rw [State.job_set hr, if_pos rfl], rfl, by simp [State.newJob]⟩

theorem State.SheetLaw.latch {s : State} (h : s.SheetLaw) (e : Event) : (s.latch e).SheetLaw :=
  h.of_same (by simp) (by simp) (by simp) (by simp)

theorem State.SheetLaw.resolveLoad {s : State} (h : s.SheetLaw) {st : Station} (hi : s.runIdle st = true)
    (n : Word) (bank : BankName) (template : Template) : (s.resolveLoad st n bank template).1.SheetLaw := by
  unfold State.resolveLoad State.loadCard State.loadRemote State.loadHouse State.loadOn State.loadReferral State.refuse
  repeat' split
  all_goals first | exact h | exact h.openRun hi .. | exact h.openReferral hi ..

theorem State.SheetLaw.takeLoad {s : State} (h : s.SheetLaw) (st : Station) (f : LoadFields) :
    (takeLoad st f s).1.SheetLaw := by
  unfold Machine.takeLoad
  split
  · exact h
  · refine State.gate_keeps h ?_
    split
    · exact h
    · unfold State.loadChecks State.refuse
      repeat' split
      all_goals first
        | exact h
        | exact h.latch _
        | (apply h.resolveLoad; simp_all)

/-! ### Advancing -/

theorem roundUp_le {x step : Nat} (h : 1 ≤ step) : x ≤ roundUp x step := by
  unfold roundUp
  have h₁ := Nat.div_add_mod (x + step - 1) step
  have h₂ := Nat.mod_lt (x + step - 1) (show 0 < step by omega)
  rw [Nat.mul_comm] at h₁
  omega

/-- Growth that succeeds covers the shortfall (R10). -/
theorem growth_covers {s : State} (hs : 1 ≤ s.params.holdStep) {slot : SlotKind} {n : Word} {x units : Nat}
    (h : s.growthFor slot n x = .grown units) : x ≤ units := by
  unfold State.growthFor at h
  repeat' split at h
  all_goals cases h
  · exact roundUp_le hs
  · exact Nat.le_refl _

/-- A sheet that is covered has the hold it needs (R38). -/
theorem cover_holds {s : State} (hs : 1 ≤ s.params.holdStep) {j : Job} {d grown : Nat} (h : s.coverFor j d = .covered grown) :
    j.neededHold d ≤ j.hold + grown := by
  unfold State.coverFor at h
  repeat' split at h
  all_goals cases h
  · omega
  · rename_i e
    have := growth_covers hs e
    omega

/-- What a burst keeps: the laws, and a run that is ACTIVE or STARVED. -/
def Bursting (s : State) (st : Station) (j₀ : Job) : Prop :=
  s.SheetLaw ∧ ∃ j, s.job st = some j ∧ j.account = j₀.account ∧ j.state = j₀.state ∧ (j.state = .active ∨ j.state = .starved)

theorem Bursting.trySheet {s s' : State} {st : Station} {j₀ : Job} (h : Bursting s st j₀) {k : SheetKind} {sides : Sides}
    (e : s.trySheet st k sides = .granted s') : Bursting s' st j₀ := by
  obtain ⟨h, j, hj, ha, hst, hs⟩ := h
  unfold State.trySheet at e
  rw [hj] at e
  dsimp only at e
  split at e
  · cases e
  · rename_i hl
    split at e
    · cases e
    · rename_i hp
      split at e
      · rename_i grown hc
        cases e
        have hne₁ : j.state ≠ .jammed := by rcases hs with x | x <;> rw [x] <;> simp
        have hne₂ : j.state ≠ .referral := by rcases hs with x | x <;> rw [x] <;> simp
        have law := (h.law hj).grant (by omega) (by omega) hne₁ hne₂ (kindMode k) k sides (s.priceFor j k sides) grown
          (cover_holds h.step hc)
        refine ⟨h.of_job hj (k := j.grant (kindMode k) (s.priceFor j k sides) grown) (o := s.runs[st].lastOutcome)
          (by simp [State.grantSheet]) (by simp [State.grantSheet]) (by simp [State.grantSheet]) (by simp [State.grantSheet])
          law rfl Iff.rfl, _, State.grantSheet_job .., ha, hst, hs⟩
      · cases e

theorem Bursting.burst {st : Station} {k : SheetKind} {sides : Sides} {j₀ : Job} (count : Nat) :
    ∀ {s : State}, Bursting s st j₀ → Bursting (State.burst st k sides count s).state st j₀ := by
  induction count with
  | zero => intro s h; exact h
  | succ n ih =>
    intro s h
    unfold State.burst
    cases e : s.trySheet st k sides with
    | stopped why x => exact h
    | granted s' => exact ih (h.trySheet e)

theorem State.SheetLaw.askTopup {s : State} (h : s.SheetLaw) {st : Station} {j : Job} (hj : s.job st = some j)
    (hr : j.state ≠ .referral) (k : Job) (ha : k.account = j.account) (stop : StopReason) (x : Nat) :
    (s.askTopup st k stop x).SheetLaw := by
  unfold State.askTopup
  split
  · rename_i hc
    refine ⟨by simpa using h.step, fun st' => ?_, ?_⟩
    · have := h.runs st'
      unfold State.RunLaw State.job at *
      simpa using this
    · refine ReferralLaw_of_create h.referrals
        (r := ⟨s.nextReferralId, .topup, st, k.account, roundUp x s.params.holdStep, .waiting, s.params.referralTimeout⟩)
        (by simp) ?_ (nextReferralId_free h.referrals) ?_ ?_
      · intro y hy e
        obtain ⟨m, h₁, h₂, h₃⟩ := h.referrals.serves y hy
        rw [show y.station = st from e, hj] at h₁
        cases h₁
        have hk : y.kind = .topup := by
          cases hk : y.kind with
          | topup => rfl
          | opening => exact absurd (h₃.mp hk) hr
        have : s.topupWaits k.account = true := by
          unfold State.topupWaits
          rw [List.any_eq_true]
          exact ⟨y, hy, by simp [hk, ha, h₂]⟩
        rw [this] at hc
        simp at hc
      · intro st' _
        simp [State.job]
      · exact ⟨j, by simpa [State.job] using hj, ha.symm, by simp [hr]⟩
  · exact h

/-- A burst leaves a run ACTIVE, STARVED or as it was (R58). -/
theorem stateAfterBurst_cases (before : RunState) (g : Nat) (stop : StopReason) :
    stateAfterBurst before g stop = .active ∨ stateAfterBurst before g stop = .starved ∨
      stateAfterBurst before g stop = before := by
  unfold stateAfterBurst
  repeat' split
  · exact Or.inl rfl
  · exact Or.inr (Or.inl rfl)
  · exact Or.inr (Or.inr rfl)

theorem State.SheetLaw.advanceRun {s : State} (h : s.SheetLaw) {st : Station} {j : Job} (hj : s.job st = some j)
    (hs : j.state = .active ∨ j.state = .starved) (f : AdvanceFields) (o : Overrides) :
    (s.advanceRun st j f o).1.SheetLaw := by
  unfold State.advanceRun
  split
  · have hb := Bursting.burst (k := o.kindFor j.template) (sides := o.sidesFor j.template) (burstCount f.count)
      (⟨h, j, hj, rfl, rfl, hs⟩ : Bursting s st j)
    generalize State.burst st (o.kindFor j.template) (o.sidesFor j.template) (burstCount f.count) s = e at *
    obtain ⟨h', m, hm, ha, _, hs'⟩ := hb
    unfold State.endBurst
    rw [hm]
    dsimp only
    have hne : stateAfterBurst m.state e.granted e.stop ≠ .referral ∧ stateAfterBurst m.state e.granted e.stop ≠ .jammed := by
      rcases stateAfterBurst_cases m.state e.granted e.stop with x | x | x <;> rw [x]
      · simp
      · simp
      · rcases hs' with y | y <;> rw [y] <;> simp
    have hmr : m.state ≠ .referral := by rcases hs' with x | x <;> rw [x] <;> simp
    refine State.SheetLaw.askTopup (j := m.endBurst j.nextSeq e.granted e.stop e.state.params.runIdle) ?_ (by simp) hne.1 m rfl ..
    refine h'.of_job hm (k := m.endBurst j.nextSeq e.granted e.stop e.state.params.runIdle) (o := e.state.runs[st].lastOutcome) (by simp) (paths_same _ st) (by simp) (by simp) ?_ rfl
      ⟨fun x => absurd x hne.1, fun x => absurd x hmr⟩
    exact (h'.law hm).restate (fun x => absurd x hne.2) hne.1 rfl rfl rfl rfl rfl rfl rfl rfl
  · split
    · exact h
    · exact h

theorem State.SheetLaw.takeAdvance {s : State} (h : s.SheetLaw) (st : Station) (f : AdvanceFields) :
    (takeAdvance st f s).1.SheetLaw := by
  unfold Machine.takeAdvance
  split
  · exact h
  · refine State.gate_keeps h ?_
    unfold State.advanceChecks
    split
    · exact h
    · rename_i j hj
      split
      all_goals first
        | exact h
        | (rename_i hs; exact h.advanceRun hj (by rw [hs]; simp) ..)

/-! ### Becoming IDLE -/

theorem State.SheetLaw.closeJob {s : State} (h : s.SheetLaw) (st : Station) (j : Job) (reason : CloseReason) :
    (s.closeJob st j reason).SheetLaw :=
  h.of_idle (st := st) (o := s.runs[st].lastOutcome) (by simp) (by simp) (by simp) (by simp)

theorem State.SheetLaw.returnJob {s : State} (h : s.SheetLaw) {st : Station} (hp : s.paths[st] = []) (j : Job)
    (o : LastOutcome) : (s.returnJob st j o).SheetLaw :=
  h.of_idle (st := st) (o := o) (by simp; rfl) (by rw [← hp]; simp) (by simp) (by simp)

theorem State.SheetLaw.path_of_referral {s : State} (h : s.SheetLaw) {st : Station} {j : Job} (hj : s.job st = some j)
    (hr : j.state = .referral) : s.paths[st] = [] := ((h.law hj).referral hr).1

theorem State.SheetLaw.setJob {s : State} (h : s.SheetLaw) {st : Station} {j k : Job} (hj : s.job st = some j)
    (law : k.Law s.paths[st]) (ha : k.account = j.account) (hs : k.state = .referral ↔ j.state = .referral) :
    (s.setJob st k).SheetLaw :=
  h.of_job hj (o := s.runs[st].lastOutcome) (by simp) (paths_same _ st) (by simp) (by simp) law ha hs

theorem State.SheetLaw.endRun {s : State} (h : s.SheetLaw) (st : Station) : (s.endRun st).1.SheetLaw := by
  unfold State.endRun
  split
  · exact h
  · rename_i j hj
    have finishing : j.state ≠ .referral → (s.endActive st j).1.SheetLaw := by
      intro hr
      unfold State.endActive State.closeOnRequest
      split
      · exact h.closeJob ..
      · refine h.setJob hj ?_ rfl ⟨fun x => by simp at x, fun x => absurd x hr⟩
        exact (h.law hj).restate (fun x => by simp at x) (by simp) rfl rfl rfl rfl rfl rfl rfl rfl
    unfold State.closeOnRequest State.cancelOnRequest
    split
    all_goals first
      | exact h
      | exact h.closeJob ..
      | (rename_i hs; exact finishing (by rw [hs]; simp))
      | (rename_i hs; exact h.returnJob (h.path_of_referral hj hs) ..)

theorem State.SheetLaw.takeRunAbort {s : State} (h : s.SheetLaw) (x : Byte) : (takeRunAbort x s).1.SheetLaw := by
  unfold Machine.takeRunAbort State.closeOnRequest State.cancelOnRequest
  split
  · exact h
  · split
    · exact h
    · rename_i j hj
      split
      · rename_i hs
        exact h.returnJob (h.path_of_referral hj hs) ..
      · exact h.closeJob ..

/-! ### Deliveries, jams and clears -/

theorem State.SheetLaw.deliver {s : State} (h : s.SheetLaw) {st : Station} {j : Job} (hj : s.job st = some j) (n : Nat) :
    (s.deliver st n).SheetLaw := by
  have hj' : s.runs[st.val].job = some j := hj
  exact h.of_job hj (o := s.runs[st].lastOutcome)
    (k := { j with delivered := j.delivered + (s.paths[st].take n).length
                   sinceInterim := j.sinceInterim + (s.paths[st].take n).length })
    (by simp [hj']) (by simp) (by simp) (by simp) ((h.law hj).deliver n _) rfl Iff.rfl

theorem State.SheetLaw.restartIdle {s : State} (h : s.SheetLaw) {st : Station} {j : Job} (hj : s.job st = some j) :
    (s.restartIdle st).SheetLaw := by
  have hj' : s.runs[st.val].job = some j := hj
  have law := h.law hj
  exact h.of_job hj (o := s.runs[st].lastOutcome) (k := { j with idleTimer := some s.params.runIdle })
    (by simp [hj']) (paths_same _ st) (by simp) (by simp)
    ⟨law.room, law.rising, law.ours, law.limit, law.fates, law.allowance, law.jammed, law.referral, law.settledBound,
      law.covered⟩ rfl Iff.rfl

theorem State.SheetLaw.interim {s : State} (h : s.SheetLaw) {st : Station} {j : Job} (hj : s.job st = some j)
    (hr : j.state ≠ .referral) :
    (s.interim st).1.SheetLaw ∧ (s.interim st).1.paths = s.paths ∧
      ∃ k, (s.interim st).1.job st = some k ∧ k.account = j.account ∧ k.state = j.state := by
  unfold State.interim
  rw [hj]
  dsimp only
  split
  · exact ⟨h, rfl, j, hj, rfl, rfl⟩
  · split
    · exact ⟨h, rfl, j, hj, rfl, rfl⟩
    · split
      · refine ⟨h.setJob hj ?_ rfl Iff.rfl, by simp, _, State.setJob_job .., rfl, rfl⟩
        exact (h.law hj).restate (h.law hj).jammed hr rfl rfl rfl rfl rfl rfl rfl rfl
      · refine ⟨?_, by simp [State.settleInterim], { j with
          settled := j.settled + j.unsettled s.paths[st] / 100, hold := j.hold - j.unsettled s.paths[st] / 100
          sinceInterim := 0 }, by simp [State.job], rfl, rfl⟩
        exact h.of_job hj (o := s.runs[st].lastOutcome)
          (k := { j with settled := j.settled + j.unsettled s.paths[st] / 100
                         hold := j.hold - j.unsettled s.paths[st] / 100, sinceInterim := 0 })
          (by simp) (by simp [State.settleInterim]) (by simp [State.settleInterim]) (by simp [State.settleInterim])
          ((h.law hj).settle hr 0) rfl Iff.rfl

theorem State.SheetLaw.finishIfEmpty {s : State} (h : s.SheetLaw) (st : Station) : (s.finishIfEmpty st).1.SheetLaw := by
  unfold State.finishIfEmpty
  split
  · exact h
  · split
    · exact h.closeJob ..
    · exact h

theorem State.SheetLaw.deliverUpTo {s : State} (h : s.SheetLaw) {st : Station} {j : Job} (hj : s.job st = some j)
    (hr : j.state ≠ .referral) (seq : Nat) : (s.deliverUpTo st j seq).1.SheetLaw := by
  unfold State.deliverUpTo State.deliverSheets
  split
  · exact h
  · dsimp only
    have h₁ := h.deliver hj (deliverable s.paths[st] seq)
    have h₂ := h₁.restartIdle (State.deliver_job hj (deliverable s.paths[st] seq))
    exact (h₂.interim (State.restartIdle_job (State.deliver_job hj (deliverable s.paths[st] seq))) hr).1.finishIfEmpty st

theorem State.SheetLaw.delivered {s : State} (h : s.SheetLaw) (st : Station) (seq : Nat) : (s.delivered st seq).1.SheetLaw := by
  unfold State.delivered
  split
  · exact h
  · rename_i j hj
    split
    all_goals first
      | exact h
      | (rename_i hs; exact h.deliverUpTo hj (by rw [hs]; simp) seq)

/-- A jam counted keeps the law. -/
theorem State.SheetLaw.countJam {s t : State} (h : s.SheetLaw) {st : Station} {j k : Job} {p : List PathEntry}
    (hj : s.job st = some j) (hr : t.runs = s.runs) (hp : t.paths = s.paths.set st p) (hq : t.referrals = s.referrals)
    (hn : t.params = s.params) (law : k.Law p) (hs : k.state ≠ .referral) (hs' : j.state ≠ .referral)
    (ha : k.account = j.account) : (t.countJam st k).SheetLaw := by
  refine h.of_job hj (k := { k with jams := jamsUp k.jams, idleTimer := some t.params.runIdle }) (o := s.runs[st].lastOutcome)
    (by simp [State.countJam, hr]) (p := p) (by simp [State.countJam, hp]) (by simp [State.countJam, hq])
    (by simp [State.countJam, hn]) ?_ ha ⟨fun x => absurd x hs, fun x => absurd x hs'⟩
  exact law.restate law.jammed hs rfl rfl rfl rfl rfl rfl rfl rfl

theorem State.SheetLaw.bringOut {s : State} (h : s.SheetLaw) {st : Station} {j : Job} (hj : s.job st = some j)
    (hr : j.state ≠ .referral) (n : Nat) :
    (s.bringOut st n).1.SheetLaw ∧
      ∃ k, (s.bringOut st n).1.job st = some k ∧ k.account = j.account ∧ k.state = j.state := by
  unfold State.bringOut
  split
  · exact ⟨h, j, hj, rfl, rfl⟩
  · have h₁ := (h.deliver hj n).interim (State.deliver_job hj n) hr
    obtain ⟨h₂, _, k, hk, ha, hs⟩ := h₁
    exact ⟨h₂, k, hk, ha, hs⟩

theorem State.SheetLaw.jamRun {s : State} (h : s.SheetLaw) {st : Station} {j : Job} (hj : s.job st = some j)
    (hr : j.state ≠ .referral) (last recovered : Nat) : (s.jamRun st j last recovered).1.SheetLaw := by
  unfold State.jamRun
  dsimp only
  obtain ⟨h₁, k, hk, ha, hs⟩ := h.bringOut hj hr
    (deliverable s.paths[st] last + min recovered (s.paths[st].length - deliverable s.paths[st] last))
  generalize (s.bringOut st
    (deliverable s.paths[st] last + min recovered (s.paths[st].length - deliverable s.paths[st] last))).1 = s₁ at *
  have e₁ : s₁.jobOr st j = k := by simp [State.jobOr, hk]
  rw [e₁]
  have hkr : k.state ≠ .referral := by rw [hs]; exact hr
  have hl := Job.loseAll_state s₁.paths[st] k
  have h₂ : (s₁.loseSheets st k).SheetLaw := by
    unfold State.loseSheets
    exact h₁.countJam hk (by simp) (p := []) (by simp) (by simp) (by simp) (h₁.law hk).loseAll (by rw [hl.1]; exact hkr) hkr hl.2
  have hm : (s₁.loseSheets st k).job st = some { k.loseAll s₁.paths[st] with
      jams := jamsUp (k.loseAll s₁.paths[st]).jams, idleTimer := some (s₁.setPath st []).params.runIdle } :=
    State.countJam_job ..
  have hp : (s₁.loseSheets st k).paths[st] = [] := by simp [State.loseSheets, State.countJam]
  generalize s₁.loseSheets st k = s₂ at *
  have e₂ : s₂.jobOr st k = { k.loseAll s₁.paths[st] with
      jams := jamsUp (k.loseAll s₁.paths[st]).jams, idleTimer := some (s₁.setPath st []).params.runIdle } := by
    simp [State.jobOr, hm]
  rw [e₂]
  have hmr : ({ k.loseAll s₁.paths[st] with
      jams := jamsUp (k.loseAll s₁.paths[st]).jams, idleTimer := some (s₁.setPath st []).params.runIdle } : Job).state ≠
      .referral := by
    show (k.loseAll s₁.paths[st]).state ≠ .referral
    rw [hl.1]
    exact hkr
  generalize ({ k.loseAll s₁.paths[st] with
      jams := jamsUp (k.loseAll s₁.paths[st]).jams, idleTimer := some (s₁.setPath st []).params.runIdle } : Job) = m at *
  unfold State.endJam
  split
  · exact h₂.closeJob ..
  · refine h₂.of_job hm (k := { m with state := .jammed }) (o := s₂.runs[st].lastOutcome) (by simp [State.enterJammed])
      (paths_same _ st) (by simp [State.enterJammed]) (by simp [State.enterJammed]) ?_ rfl
      ⟨fun x => by simp at x, fun x => absurd x hmr⟩
    exact (h₂.law hm).restate (fun _ => hp) (by simp) rfl rfl rfl rfl rfl rfl rfl rfl

theorem State.SheetLaw.jam {s : State} (h : s.SheetLaw) (st : Station) (last recovered : Nat) :
    (s.jam st last recovered).1.SheetLaw := by
  unfold State.jam
  split
  · exact h
  · rename_i j hj
    cases hs : j.state with
    | referral => exact h
    | jammed =>
      have hr : j.state ≠ .referral := by rw [hs]; simp
      exact h.countJam hj rfl (paths_same _ st) rfl rfl (h.law hj) hr hr rfl
    | active => exact h.jamRun hj (by rw [hs]; simp) ..
    | starved => exact h.jamRun hj (by rw [hs]; simp) ..
    | finishing => exact h.jamRun hj (by rw [hs]; simp) ..

theorem State.SheetLaw.clear {s : State} (h : s.SheetLaw) (st : Station) : (s.clear st).1.SheetLaw := by
  unfold State.clear State.answer
  split
  · exact h
  · rename_i j hj
    split
    · rename_i hs
      have hr : j.state ≠ .referral := by rw [hs]; simp
      refine h.of_job hj (k := { j with state := .active, idleTimer := some s.params.runIdle }) (o := s.runs[st].lastOutcome)
        (by simp [State.clearJam]) (paths_same _ st) (by simp [State.clearJam]) (by simp [State.clearJam]) ?_ rfl
        ⟨fun x => by simp at x, fun x => absurd x hr⟩
      exact (h.law hj).restate (fun x => by simp at x) (by simp) rfl rfl rfl rfl rfl rfl rfl rfl
    · exact h

/-! ### Card sessions and the capture queue touch no run -/

theorem State.SheetLaw.enterCapturing {s : State} (h : s.SheetLaw) (st : Station) (x : Session) :
    (s.enterCapturing st x).SheetLaw := h.of_same rfl rfl rfl rfl

theorem State.SheetLaw.leaveOpen {s : State} (h : s.SheetLaw) (st : Station) (x : Session) : (s.leaveOpen st x).SheetLaw := by
  unfold State.leaveOpen
  split <;> exact h.of_same (by simp) (by simp) (by simp) (by simp)

theorem State.SheetLaw.endSession {s : State} (h : s.SheetLaw) (st : Station) : (s.endSession st).1.SheetLaw := by
  unfold State.endSession
  repeat' split
  all_goals first
    | exact h
    | exact h.leaveOpen ..

theorem State.SheetLaw.logSession {s : State} (h : s.SheetLaw) (st : Station) : (s.logSession st).SheetLaw := by
  unfold State.logSession
  repeat' split
  all_goals first
    | exact h
    | exact h.of_same (by simp) (by simp) (by simp) (by simp)

theorem State.SheetLaw.tryWait : ∀ (wait : List Station) {s : State}, s.SheetLaw → (State.tryWait wait s).SheetLaw
  | [], _, h => h.of_same rfl rfl rfl rfl
  | st :: rest, s, h => by
    unfold State.tryWait
    split
    · exact h.of_same rfl rfl rfl rfl
    · split
      · exact State.SheetLaw.tryWait rest (h.enterCapturing ..)
      · exact h.of_same rfl rfl rfl rfl

theorem State.SheetLaw.removeHead {s : State} (h : s.SheetLaw) (head : Order) (rest : List Order) (o : AuthOutcome) :
    (s.removeHead head rest o).SheetLaw := by
  have h₁ : (s.storeOutcome head rest o).SheetLaw := h.of_same rfl rfl rfl rfl
  exact (State.SheetLaw.tryWait _ (h₁.logSession head.station)).of_same rfl rfl rfl rfl

/-! ### Referral replies and timeouts -/

/-- What a referral found by id serves. -/
theorem State.SheetLaw.found {s : State} (h : s.SheetLaw) {id : Nat} {r : Referral}
    (hf : s.referrals.find? (fun x => x.id == id) = some r) :
    r ∈ s.referrals ∧ r.id = id ∧ ∃ j, s.job r.station = some j ∧ j.account = r.account ∧
      (r.kind = .opening ↔ j.state = .referral) := by
  have hm := List.mem_of_find?_eq_some hf
  have hi := List.find?_some hf
  exact ⟨hm, by simpa using hi, h.referrals.serves r hm⟩

theorem State.SheetLaw.removeReferral {s : State} (h : s.SheetLaw) {r : Referral} (hm : r ∈ s.referrals) :
    (s.removeReferral r.id).SheetLaw := by
  refine ⟨by simpa using h.step, fun st => ?_, ReferralLaw_of_remove h.referrals hm (by simp) (fun _ _ => rfl)⟩
  exact h.runs st

theorem State.SheetLaw.reply {s : State} (h : s.SheetLaw) {id : Nat} {r : Referral}
    (hf : s.referrals.find? (fun x => x.id == id) = some r) (d : Decision) : (s.reply r d).SheetLaw := by
  obtain ⟨hm, _, j, hj, ha, hk⟩ := h.found hf
  have h' := h.removeReferral hm
  have hj' : (s.removeReferral r.id).job r.station = some j := hj
  unfold State.reply State.replyOpen State.replyTopup
  split
  · rename_i ho
    have hr := hk.mp ho
    rw [hj']
    dsimp only
    split
    · rename_i amount tier
      have hruns : ((State.activateMirror (s.removeReferral r.id) r.account amount tier).grantRun r.station j tier).runs =
          s.runs.set r.station ⟨some { j with state := .active, tier := tier
                                              idleTimer := some s.params.runIdle }, .granted⟩ := by
        simp [State.grantRun]
      refine ⟨by simpa [State.grantRun] using h.step, ?_, ?_⟩
      · refine RunLaw_set h.runs hruns (p := s.paths[r.station]) (by simp [State.grantRun]) ?_
        exact (h.law hj).restate (fun x => by simp at x) (by simp) rfl rfl rfl rfl rfl rfl rfl rfl
      · refine ReferralLaw_of_remove h.referrals hm (by simp [State.grantRun]) ?_
        intro st' hne
        rw [State.job_set hruns, if_neg hne]
    · exact h'.returnJob (h.path_of_referral hj hr) ..
  · split
    · exact h'.of_same (by simp) (by simp) (by simp) (by simp)
    · exact h'

theorem State.SheetLaw.takeReferralReply {s : State} (h : s.SheetLaw) (f : ReferralReplyFields) :
    (takeReferralReply f s).1.SheetLaw := by
  unfold Machine.takeReferralReply State.refuse
  split
  · exact h
  · split
    · exact h
    · rename_i hf
      exact h.reply hf _

theorem State.SheetLaw.timeOut {s : State} (h : s.SheetLaw) {id : Nat} {r : Referral}
    (hf : s.referrals.find? (fun x => x.id == id) = some r) : ((s.removeReferral id).timeOut r).SheetLaw := by
  obtain ⟨hm, hi, j, hj, _, hk⟩ := h.found hf
  subst hi
  have h' := h.removeReferral hm
  have hj' : (s.removeReferral r.id).job r.station = some j := hj
  unfold State.timeOut
  split
  · exact h'
  · rename_i ho
    rw [hj']
    exact h'.returnJob (h.path_of_referral hj (hk.mp ho)) ..

theorem ReferralLaw_of_map {s t : State} (h : s.ReferralLaw) (g : Referral → Referral)
    (hg : ∀ r, (g r).id = r.id ∧ (g r).station = r.station ∧ (g r).account = r.account ∧ (g r).kind = r.kind)
    (hq : t.referrals = s.referrals.map g)
    (ht : ∀ st, ∀ j, s.job st = some j → ∃ k, t.job st = some k ∧ k.account = j.account ∧ k.state = j.state) :
    t.ReferralLaw where
  stations := by
    rw [hq, List.map_map]
    have : (fun r : Referral => r.station) ∘ g = fun r => r.station := by
      funext r
      exact (hg r).2.1
    rw [this]
    exact h.stations
  ids := by
    rw [hq, List.map_map]
    have : (fun r : Referral => r.id) ∘ g = fun r => r.id := by
      funext r
      exact (hg r).1
    rw [this]
    exact h.ids
  serves := by
    intro x hx
    rw [hq] at hx
    obtain ⟨r, hr, rfl⟩ := List.mem_map.mp hx
    obtain ⟨j, h₁, h₂, h₃⟩ := h.serves r hr
    obtain ⟨k, e₁, e₂, e₃⟩ := ht _ _ h₁
    refine ⟨k, by rw [(hg r).2.1]; exact e₁, by rw [e₂, h₂, (hg r).2.2.1], ?_⟩
    rw [(hg r).2.2.2, e₃]
    exact h₃

/-! ### Time and the whole part -/

theorem State.SheetLaw.tick {s : State} (h : s.SheetLaw) : (onTimebaseTick s).SheetLaw := by
  have hjob : ∀ st : Station, (onTimebaseTick s).job st =
      (s.job st).map (fun j => { j with idleTimer := tickTimer (s.runIdleFrozen st) j.idleTimer }) := by
    intro st
    simp [State.job, onTimebaseTick, State.tickRun]
  refine ⟨h.step, fun st => ?_, ?_⟩
  · have := h.runs st
    unfold State.RunLaw at *
    rw [hjob]
    cases hj : s.job st with
    | none => rw [hj] at this; exact this
    | some j =>
      rw [hj] at this
      exact ⟨this.room, this.rising, this.ours, this.limit, this.fates, this.allowance, this.jammed, this.referral,
        this.settledBound, this.covered⟩
  · refine ReferralLaw_of_map h.referrals (fun r => { r with timeout := r.timeout - 1 }) (fun r => ⟨rfl, rfl, rfl, rfl⟩) rfl ?_
    intro st j hj
    rw [hjob, hj]
    exact ⟨_, rfl, rfl, rfl⟩

theorem State.SheetLaw.teardown {s : State} (h : s.SheetLaw) : s.teardown.SheetLaw := by
  have run : ∀ (l : List Station) (t : State), t.SheetLaw → (l.foldl State.teardownRun t).SheetLaw := by
    intro l
    induction l with
    | nil => intro t ht; exact ht
    | cons st l ih =>
      intro t ht
      refine ih _ ?_
      unfold State.teardownRun
      split
      · exact ht
      · rename_i j hj
        split
        · rename_i hr
          exact ht.returnJob (ht.path_of_referral hj hr) ..
        · exact ht.closeJob ..
  have session : ∀ (l : List Station) (t : State), t.SheetLaw → (l.foldl State.teardownSession t).SheetLaw := by
    intro l
    induction l with
    | nil => intro t ht; exact ht
    | cons st l ih =>
      intro t ht
      refine ih _ ?_
      unfold State.teardownSession
      repeat' split
      all_goals first
        | exact ht
        | exact ht.leaveOpen ..
  exact session _ _ (run _ _ h)

theorem State.SheetLaw.takeWarmReset {s : State} (h : s.SheetLaw) (u : Unit) : (takeWarmReset u s).1.SheetLaw := by
  unfold Machine.takeWarmReset State.refuse
  split
  · exact h
  · rename_i hw
    simp only [State.workOpen, Bool.or_eq_true, not_or] at hw
    have e : s.referrals = [] := by simpa using hw.1.2
    have hj : ∀ st : Station, s.warmReset.job st = none := by
      intro st
      simp [State.job, State.warmReset, Run.idle]
    refine ⟨h.step, fun st => ?_, ?_⟩
    · unfold State.RunLaw
      rw [hj]
      simp [State.warmReset]
    · have e' : s.warmReset.referrals = [] := e
      exact ⟨by rw [e']; exact List.nodup_nil, by rw [e']; exact List.nodup_nil, by rw [e']; simp⟩

theorem State.SheetLaw.reset (cause : ResetCause) (s : State) : (s.resetBy cause).SheetLaw := by
  refine ⟨show 1 ≤ Config.holdStepDefault by decide, fun st => ?_, ?_⟩
  · have e : (s.resetBy cause).job st = none := by simp [State.job, State.resetBy, State.reset, Run.idle]
    unfold State.RunLaw
    rw [e]
    simp [State.resetBy, State.reset]
  · exact ⟨List.nodup_nil, List.nodup_nil, fun r hr => by cases hr⟩

/-! ### The laws through ports, blocks and events -/

theorem State.SheetLaw.clockByte {s : State} (h : s.SheetLaw) (x : Byte) : (s.clockByte x).SheetLaw := by
  unfold State.clockByte
  repeat' split
  all_goals first
    | exact h
    | exact h.of_same rfl rfl rfl rfl

theorem SheetLaw_port : PortKeeps State.SheetLaw where
  frame := fun _ _ h => h.of_same (by simp) (by simp) (by simp) (by simp)
  access := fun _ _ _ h => h.of_same (by simp) (by simp) (by simp) (by simp)
  format := fun _ _ h => h.of_same (by simp) (by simp) (by simp) (by simp)
  counted := fun _ _ h => h.of_same (by simp) (by simp) (by simp) (by simp)
  discard := fun _ _ h => h.of_same (by simp) (by simp) (by simp) (by simp)
  receiver := fun _ _ _ h => h.of_same (by simp) (by simp) (by simp) (by simp)
  byte := fun _ x h => h.clockByte x
  answered := fun _ _ _ h => h.of_same (by simp) (by simp) (by simp) (by simp)

theorem SheetLaw_expiries (st : Station) {s : State} (h : s.SheetLaw) :
    (onRunIdleTimerExpiry st s).SheetLaw ∧ (onJamTimerExpiry st s).SheetLaw ∧ (onLostTimerExpiry st s).SheetLaw := by
  unfold onRunIdleTimerExpiry onJamTimerExpiry onLostTimerExpiry
  cases hj : s.job st with
  | none => exact ⟨h, h, h⟩
  | some j =>
    dsimp only
    refine ⟨?_, ?_, ?_⟩
    · split
      · exact h.closeJob ..
      · exact h
    · split
      · exact (h.closeJob ..).latch _
      · exact h
    · split
      · split
        · rename_i hr
          exact h.returnJob (h.path_of_referral hj hr) ..
        · exact h.closeJob ..
      · exact h

theorem SheetLaw_events : EventsKeep State.SheetLaw where
  quiet := fun s link h => by
    unfold State.lineQuiet
    split
    · exact h
    · exact h.of_same (by simp) (by simp) (by simp) (by simp)
    · exact h.of_same (by simp) (by simp) (by simp) (by simp)
  unsent := fun _ h => h.of_same rfl rfl rfl rfl
  dropped := fun _ h => h.of_same rfl rfl rfl rfl
  reset := fun s cause _ => State.SheetLaw.reset cause s
  tick := fun _ h => h.tick
  runIdle := fun st _ h => (SheetLaw_expiries st h).1
  jam := fun st _ h => (SheetLaw_expiries st h).2.1
  lost := fun st _ h => (SheetLaw_expiries st h).2.2
  silence := fun st s h => by
    unfold onSilenceTimerExpiry
    split
    · exact h.of_same rfl rfl rfl rfl
    · exact h
  cardIdle := fun st s h => by
    unfold onCardIdleTimerExpiry
    repeat' split
    all_goals first
      | exact h
      | exact h.leaveOpen ..
  referral := fun id s h => by
    unfold onReferralTimeout
    split
    · exact h
    · rename_i hf
      split
      · exact h.timeOut hf
      · exact h
  stall := fun s h => by
    unfold onCaptureStallTimingExpiry
    split
    · exact h.of_same rfl rfl rfl rfl
    · exact h

theorem SheetLaw_params {s : State} (h : s.SheetLaw) (p : Params) (hp : 1 ≤ p.holdStep) :
    ({ s with params := p } : State).SheetLaw :=
  ⟨hp, h.runs, ReferralLaw_of_same h.referrals rfl (fun _ _ => rfl)⟩

/-- The hold step is at least 1 whatever is stored (R173). -/
theorem store_holdStep (p : Params) (h : 1 ≤ p.holdStep) (name : ParamName) (value : Word) :
    1 ≤ (p.store name value).holdStep := by
  cases name <;> first
    | exact h
    | exact Nat.le_max_left ..

theorem SheetLaw_blocks : BlocksKeep State.SheetLaw where
  load := fun _ st f h => h.takeLoad st f
  advance := fun _ st f h => h.takeAdvance st f
  endRun := fun _ st h => h.endRun st
  delivered := fun _ st seq h => h.delivered st seq
  jam := fun _ st d r h => h.jam st d r
  clear := fun _ st h => h.clear st
  endSession := fun _ st h => h.endSession st
  authNotice := fun _ f h => by
    unfold takeAuthNotice State.authChecks State.authOpen State.authTopUp State.refuse
    repeat' split
    all_goals first
      | exact h
      | exact h.of_same (by simp [State.openSession, State.topUpSession]) (by simp [State.openSession, State.topUpSession])
          (by simp [State.openSession, State.topUpSession]) (by simp [State.openSession, State.topUpSession])
  captureResult := fun _ f h => by
    unfold takeCaptureResult State.refuse
    repeat' split
    all_goals first
      | exact h
      | exact (h.of_same (by simp) (by simp) (by simp) (by simp) : State.SheetLaw (State.latchIf ..)).removeHead ..
  acctCreate := fun _ f h => by
    unfold takeAcctCreate State.createHouse State.adjust State.refuse
    repeat' split
    all_goals first
      | exact h
      | exact h.of_same (by simp) (by simp) (by simp) (by simp)
  acctUpdate := fun _ f h => by
    unfold takeAcctUpdate State.updateHouse State.adjust State.refuse
    repeat' split
    all_goals first
      | exact h
      | exact h.of_same (by simp) (by simp) (by simp) (by simp)
  acctDelete := fun _ n h => by
    unfold takeAcctDelete State.refuse
    repeat' split
    all_goals first
      | exact h
      | exact h.of_same (by simp) (by simp) (by simp) (by simp)
  priceWrite := fun _ f h => by
    unfold takePriceWrite State.refuse
    repeat' split
    all_goals first
      | exact h
      | exact h.of_same (by simp) (by simp) (by simp) (by simp)
  priceSwap := fun _ x h => by
    unfold takePriceSwap State.swapTo State.refuse
    repeat' split
    all_goals first
      | exact h
      | exact h.of_same (by simp) (by simp) (by simp) (by simp)
  runAbort := fun _ x h => h.takeRunAbort x
  captureAbandon := fun _ f h => by
    unfold takeCaptureAbandon State.refuse
    repeat' split
    all_goals first
      | exact h
      | exact h.removeHead ..
  referralFetch := fun s u h => by
    unfold takeReferralFetch
    split
    · exact h
    · rename_i r _
      refine ⟨by simpa using h.step, h.runs, ?_⟩
      refine ReferralLaw_of_map h.referrals (fun x => if x.id = r.id then { x with state := .fetched } else x) ?_ (by simp)
        (fun _ j hj => ⟨j, hj, rfl, rfl⟩)
      intro x
      split <;> exact ⟨rfl, rfl, rfl, rfl⟩
  referralReply := fun _ f h => h.takeReferralReply f
  logRelease := fun _ seq h => by
    unfold takeLogRelease State.refuse
    split
    · exact h
    · exact h.of_same rfl rfl rfl rfl
  stationSetNone := fun _ f h => by
    unfold takeStationSetNone State.refuse
    repeat' split
    all_goals first
      | exact h
      | exact h.of_same (by simp [State.stationSet]) (by simp [State.stationSet]) (by simp [State.stationSet])
          (by simp [State.stationSet])
  attnExchange := fun _ _ h => h.of_same rfl rfl rfl rfl
  setParam := fun s f h => by
    unfold takeSetParam State.refuse
    repeat' split
    all_goals first
      | exact h
      | exact SheetLaw_params h _ (store_holdStep _ h.step ..)
  warmReset := fun _ u h => h.takeWarmReset u
  linkStats := fun _ _ h => h.of_same (by simp) (by simp) (by simp) (by simp)
  actions := fun _ st flags h => by
    unfold State.enable State.disable State.hold State.release State.turnOff State.turnOffWhenFree State.refuse
    refine ⟨?_, ?_, ?_, ?_, ?_⟩
    all_goals repeat' split
    all_goals first
      | exact h
      | exact h.of_same (by simp [State.stationSet]) (by simp [State.stationSet]) (by simp [State.stationSet])
          (by simp [State.stationSet])
  teardown := fun _ _ h => by
    unfold takeTeardown
    dsimp only
    exact h.teardown

end Sys2Proof.Machine
end

