-- ==== Sys2Proof/Tests/Slice0.lean ====
section
/-! SUPPORT. Small tests of the model on single commands (the worked case of section 2.5 among them), the well-formedness smoke, and, for
every statement of Obligations.lean that has hypotheses, a witness: concrete states and operands that meet them, clause by clause. -/

-- One test after the other: as tasks of their own they would each ask for a thread's stack at once.
set_option Elab.async false

namespace Sys2Proof.Tests

open Machine

/-! ### Small states -/

/-- The prices of tier 1 in the worked case (section 2.5). -/
def shopPrices : TierPrices :=
  { base := ((Vector.replicate 16 0).set 0 1250).set 8 4950, back := 55, breaks := #v[⟨3, 100⟩, ⟨0, 0⟩, ⟨0, 0⟩, ⟨0, 0⟩] }

/-- A station record in a state. -/
def stationIn (state : StationState) (prior : Option PriorState) : StationRecord :=
  { State.reset.stations[0] with state := state, prior := prior, silence := some 10 }

/-- A house account with a number, state, max runs and run list. -/
def account (n : Word) (state : AcctState) (maxRuns : Nat) (runList : List Station) : HouseRecord :=
  { number := n, kind := .prepaid, tier := 1, state := state, limit := 0, maxRuns := maxRuns
    credit := { balance := 1000, held := 0, runList := runList } }

/-- A shop at work: every station ENABLED, bank A active at generation 7, and the house accounts 1, 2001, 2002 (FROZEN), 2003 (at its
max runs) and 0xFFFFFFEF. -/
def shop : State :=
  { State.reset with
    stations := Vector.replicate 8 (stationIn .enabled none)
    house := [account 1 .opened 0 [], account 2001 .opened 0 [2], account 2002 .frozen 0 [], account 2003 .opened 1 [3],
      account 0xFFFFFFEF .opened 8 []]
    active := some .a
    bankA := { tiers := Vector.replicate 4 shopPrices, generation := 7, users := 0 } }

/-- The shop with station 2 in a station state. -/
def shopAt (state : StationState) (prior : Option PriorState) : State :=
  { shop with stations := shop.stations.set 2 (stationIn state prior) }

/-- The template of the worked case: media 0, mono, duplex. -/
def mono0 : Template := { media := 0, colour := .mono, sides := .duplex }

/-- A run in a state, with granted sheets, a charge and a hold. -/
def runOf (state : RunState) (slot : SlotKind) (account : Word) (granted charge hold : Nat) : Job :=
  { state := state, account := account, slot := slot, tier := 1, bank := .a, generation := 7, jamAllowance := 20, template := mono0
    lastBurst := none, charge := charge, settled := 0, hold := hold, granted := granted, delivered := 0, credited := 0, disputed := 0
    netMono := granted, netColour := 0, jams := 0, sinceInterim := 0, idleTimer := some 300 }

/-- A state with station 2's run and in-path list. -/
def withRun (s : State) (j : Job) (path : List PathEntry) : State :=
  { s with runs := s.runs.set 2 { job := some j, lastOutcome := .none }, paths := s.paths.set 2 path, reserved := 1 }

/-- The shop with station 2's run in a state on account 2001. -/
def shopRun (state : RunState) (granted charge hold : Nat) (path : List PathEntry) : State :=
  withRun shop (runOf state .house 2001 granted charge hold) path

/-- In-path entries: simplex sheets of kind 0 at price 100 under the numbers given. -/
def sheets (numbers : List Nat) : List PathEntry := numbers.map (fun n => { seq := n, kind := 0, sides := .simplex, price := 100 })

/-- An authorization by its reference, with an outcome. -/
def authFor (reference : Word) (outcome : AuthOutcome) : Auth :=
  { reference := reference, amount := 300, cardClass := 0, capture := none, outcome := outcome }

/-- A session in a state with authorizations. -/
def sessionOf (state : SessionState) (auths : List Auth) : Session :=
  { state := state, tier := 1, auths := auths, spent := 0, idleTimer := some 120 }

/-- A state with station 2's session, its card slot, and a capture queue. -/
def withSession (s : State) (x : Session) (queue : List Order) : State :=
  { s with
    sessions := s.sessions.set 2 (some x), cards := s.cards.set 2 (some { balance := 300, held := 0, runList := [] })
    captureQueue := queue, reserved := 1 }

/-- An order of station 2. -/
def orderFor (reference : Word) : Order := { station := 2, reference := reference, kind := .release, amount := 0 }

/-- A mirror. -/
def mirrorOf (n : Word) (state : MirrorState) : Mirror :=
  { number := n, state := state, tier := 1, credit := { balance := 400, held := 0, runList := [2] } }

/-- The shop with a remote route that matches the numbers from 0x8A100000 to 0x8A1FFFFF. -/
def routed : State := { shop with params := { shop.params with routeMask := 0xFFF00000, routeValue := 0x8A100000 } }

/-- A referral of station 2. -/
def referralOf (id : Nat) (kind : ReferralKind) (state : ReferralState) (timeout : Nat) : Referral :=
  { id := id, kind := kind, station := 2, account := 0x8A100A3C, requested := 500, state := state, timeout := timeout }

/-- A link's receiver set. -/
def listening (s : State) (link : Link) (r : Receiver) : State := s.setReceiver link r

/-- A log of a length. -/
def logOf (n : Nat) : List LogRecord := (List.range n).map (fun i => { seq := i + 1, entry := .swap .a 1 })

/-! ### Well-formed and ill-formed commands (section 9.4) -/

/-- Every check of well-formedness refuses a term. -/
theorem test_ill_formed_commands :
    (Instr.advance (.c 0) (.of ⟨1, 1, [⟨1, 0⟩, ⟨2, 0⟩, ⟨1, 0⟩]⟩)).wf = false ∧
    (Instr.priceWrite .m (.of ⟨1, 0, 1, [0, 0]⟩)).wf = false ∧
    (Instr.stationSetNone .m (.of ⟨0, 1, none⟩)).wf = false ∧
    (Instr.invalidRequestCode .m 0x01).wf = false ∧
    (Instr.frameDiscarded .p []).wf = false ∧
    (Instr.frameDiscarded .m [⟨0xA5, true⟩]).wf = false ∧
    (Instr.referralTimeout 0).wf = false ∧
    (Instr.referralTimeout 256).wf = false := by decide

/-- The same rows with operands that a link can bring. -/
theorem test_well_formed_commands :
    (Instr.advance (.c 0) (.of ⟨1, 1, [⟨1, 0⟩, ⟨2, 0⟩]⟩)).wf = true ∧
    (Instr.priceWrite .m (.of ⟨1, 0, 1, [0, 0, 1]⟩)).wf = true ∧
    (Instr.stationSetNone .m (.of ⟨0, 6, none⟩)).wf = true ∧
    (Instr.invalidRequestCode .m 0x09).wf = true ∧
    (Instr.frameDiscarded .p [⟨0xA5, true⟩]).wf = true ∧
    (Instr.referralTimeout 255).wf = true := by decide

/-! ### Frames and codes (section 9.4) -/

/-- Request codes and bodies read as their rows. -/
theorem test_requests_read :
    decodeRequest (.c 3) 0x01 [0, 0, 0x07, 0xD1, 0, 0, 1] = .load (.c 3) (.of ⟨2001, 0, 0, 1⟩) ∧
    decodeRequest (.c 3) 0x02 [0, 5, 1, 1, 8, 2, 0] = .advance (.c 3) (.of ⟨5, 1, [⟨1, 8⟩, ⟨2, 0⟩]⟩) ∧
    decodeRequest .p 0x20 [5, 0, 0, 0x50, 0x01, 0, 0, 1, 0x2C, 2] = .authNotice .p (.of ⟨5, 0x5001, 300, 2⟩) ∧
    decodeRequest .m 0x59 [0, 1] = .logRelease .m (.of 1) ∧
    decodeRequest .m 0x61 [2, 1] = .stationSetEnable .m (.of ⟨2, none⟩) ∧
    decodeRequest .m 0x61 [2, 0, 7] = .stationSetNone .m (.of ⟨2, 0, some 7⟩) ∧
    decodeRequest .m 0x62 [2, 1] = .stationRead .m .wrongLength ∧
    decodeRequest .m 0x09 [] = .invalidRequestCode .m 0x09 := by decide

/-- The check of the nine digits (R152). -/
theorem test_check_of_nine_digits :
    crc16 [0x31, 0x32, 0x33, 0x34, 0x35, 0x36, 0x37, 0x38, 0x39] = 0x29B1 := by decide +kernel

/-- The M-link's data-out line: a waiting response's frame byte by byte under as many fillers as it has bytes, then 0x00; and the frame from
its first byte again after a release of select (R151). -/
theorem test_response_clocked_out :
    ((shop.respond .m ⟨.ok, [7]⟩).clockedOut (List.replicate 8 ⟨0, false⟩) = frameBytes 0xB0 0x00 [7] ++ [0x00]) ∧
    ((onSelectReleased (onFrameDiscarded .m [⟨0, false⟩] (shop.respond .m ⟨.ok, [7]⟩))).dataOut = 0xA5) ∧
    shop.dataOut = 0x00 ∧ shop.ready = false := by decide +kernel

/-! ### Single commands -/

/-- The sheet prices of the worked case (section 2.5): 1,937 without a discount, 1,743 from the third sheet on, 4,950 for colour. -/
theorem test_worked_prices :
    sheetPrice shopPrices 0 .duplex 1 = 1937 ∧ sheetPrice shopPrices 0 .duplex 3 = 1743 ∧
    sheetPrice shopPrices 8 .simplex 1 = 4950 := by decide

/-- A LOAD of the worked case opens the run and is answered with tier 1, generation 7 and available credit 1,000 (section 11.1). -/
theorem test_load_opens_the_run :
    ∃ t, exec (.load (.c 2) (.of ⟨2001, 0, 0, 1⟩)) shop = .next t ∧ (t.job 2).isSome = true ∧ t.reserved = 1 ∧ t.bankA.users = 1 ∧
      t.io.cOut[2] = [⟨.ok, [2, 1, 1, 0, 7, 0, 0, 3, 0xE8]⟩] := ⟨_, rfl, by decide +kernel⟩

/-- The first burst of the worked case grants four sheets for 7,360 fine units on a hold of 200 (section 11.1). -/
theorem test_advance_grants_four :
    ∃ t, exec (.advance (.c 2) (.of ⟨1, 4, []⟩)) (shopRun .active 0 0 0 []) = .next t ∧
      (t.job 2).map (fun j => (j.charge, j.hold, j.granted)) = some (7360, 200, 4) ∧
      t.paths[2].map (fun e => e.price) = [1937, 1937, 1743, 1743] ∧
      (t.houseRecord 2001).map (fun r => r.credit.held) = some 200 := ⟨_, rfl, by decide +kernel⟩

/-- An END_RUN of an ACTIVE run with an empty list closes it: 9,103 fine units debit 91 units, and the record is appended. -/
theorem test_end_run_closes :
    ∃ t, exec (.endRun (.c 2) (.of ())) (shopRun .active 7 9103 144 []) = .next t ∧ t.job 2 = none ∧
      (t.houseRecord 2001).map (fun r => r.credit.balance) = some 909 ∧ t.log.length = 1 ∧ t.reserved = 0 ∧
      t.io.cOut[2] = [⟨.ok, [0, 0, 0, 0, 91, 0, 1]⟩] := ⟨_, rfl, by decide +kernel⟩

/-- A JAM that loses two sheets credits them back within the allowance (R82). -/
theorem test_jam_credits_back :
    ∃ t, exec (.jam (.c 2) (.of ⟨0, 0⟩)) (shopRun .active 2 200 200 (sheets [1, 2])) = .next t ∧
      (t.job 2).map (fun j => (j.state, j.charge, j.credited, j.jams)) = some (.jammed, 0, 2, 1) ∧ t.jamTimers[2] = some 180 :=
  ⟨_, rfl, by decide +kernel⟩

/-- An AUTH_NOTICE opens a session with the tier of its card class (R97). -/
theorem test_auth_notice_opens :
    ∃ t, exec (.authNotice .p (.of ⟨2, 0x5001, 300, 2⟩)) shop = .next t ∧ t.sessionOpen 2 = true ∧
      t.io.pOut = [⟨.ok, [2, 1, 1, 0, 0, 1, 0x2C, 2]⟩] := ⟨_, rfl, by decide +kernel⟩

/-- The whole frame of a POLL, heard byte by byte, is answered NONE where the capture queue is empty (R107, R153). -/
theorem test_heard_poll_is_answered :
    ∃ t, exec (.frameDiscarded .p ((frameBytes 0x20 0x22 []).map (fun v => ⟨v, false⟩))) shop = .next t ∧
      t.io.pOut = [⟨.none, []⟩] ∧ t.io.pPort.accepted = 1 := ⟨_, rfl, by decide +kernel⟩

/-- A frame with a wrong check is discarded and counted, and the receiver hunts (R153). -/
theorem test_wrong_check_is_discarded :
    ∃ t, exec (.frameDiscarded .p ([0xA5, 0x20, 0, 0x22, 0, 0].map (fun v => ⟨v, false⟩))) shop = .next t ∧
      t.io.pOut = [] ∧ t.io.pPort.discarded = 1 ∧ t.io.pPort.receiver = .hunt := ⟨_, rfl, by decide +kernel⟩

/-! ### Witnesses: the ports -/

theorem test_witness_IdleStepSendsOldestResponses : State.reset.pending = [] := rfl

theorem test_witness_PortRefusesBeforeTheBlock :
    ((Instr.query (.c 7) (.of ())).header.map (fun h => (h.link, h.kind, h.code)) = some (.c 7, .station, 0x03) ∧
      (listening shop (.c 7) .skip).deaf (.c 7) = true ∧ shop.deaf (.c 7) = false) ∧
    ((Instr.query .m (.of ())).header.map (fun h => (h.link, h.kind)) = some (.m, .station) ∧ Link.m.kind ≠ .station ∧
      shop.deaf .m = false) ∧
    ((Instr.query (.c 0) .wrongLength).malformed = true ∧ (Instr.query (.c 0) .wrongLength).header.isSome = true ∧
      (Link.c 0).kind = .station ∧ shop.deaf (.c 0) = false) := by decide +kernel

theorem test_witness_OffAndHeldStationsRefuse :
    ((Instr.query (.c 2) (.of ())).header.isSome = true ∧ (Instr.query (.c 2) (.of ())).malformed = false ∧
      (Instr.query (.c 2) (.of ())).wf = true ∧ (shopAt .off none).deaf (.c 2) = false ∧
      (shopAt .off none).stations[2].state = .off ∧ (shopAt .held (some .enabled)).stations[2].state = .held) ∧
    ((Instr.load (.c 2) (.of ⟨1, 8, 0, 0⟩)).malformed = false ∧ readTemplate ⟨1, 8, 0, 0⟩ = none ∧
      readTemplate ⟨1, 7, 1, 1⟩ ≠ none) ∧
    ((Instr.advance (.c 2) (.of ⟨1, 1, [⟨1, 16⟩]⟩)).wf = true ∧ readOverrides [⟨1, 16⟩] ⟨none, none⟩ = none ∧
      readOverrides [⟨1, 15⟩] ⟨none, none⟩ ≠ none) := by decide +kernel

/-- The action codes of STATION_SET in its frames (section 9.4). -/
theorem test_station_set_actions_read :
    [1, 2, 3, 4, 5, 0].map (fun action : Byte => decodeRequest .m 0x61 [2, action, 7]) =
      [.stationSetEnable .m (.of ⟨2, some 7⟩), .stationSetDisable .m (.of ⟨2, some 7⟩), .stationSetHold .m (.of ⟨2, some 7⟩),
        .stationSetRelease .m (.of ⟨2, some 7⟩), .stationSetOff .m (.of ⟨2, some 7⟩), .stationSetNone .m (.of ⟨2, 0, some 7⟩)] := by
  decide

theorem test_witness_FrameLayoutAndCheck :
    (Instr.poll .p (.of ())).header = some ⟨.p, 0x22, .payment⟩ ∧ encodeRequest (.poll .p (.of ())) = some ⟨.p, 0x22, []⟩ := ⟨rfl, rfl⟩

theorem test_witness_DecodeOfEncodeIsTheCommand :
    (Instr.load (.c 7) (.of ⟨0xFFFFFFEF, 7, 1, 1⟩)).wf = true ∧
    (encodeRequest (.load (.c 7) (.of ⟨0xFFFFFFEF, 7, 1, 1⟩))).isSome = true ∧
    (encodeRequest (.priceWrite .m (.of ⟨2, 3, 1, 0 :: List.replicate 32 0xFF⟩))).isSome = true := by decide +kernel

theorem test_witness_HeardFrameIsTheRequest :
    (Instr.poll .p (.of ())).wf = true ∧ (encodeRequest (.poll .p (.of ()))).map (fun f => f.link) = some .p ∧
    (shop.port .p).receiver = .hunt := by decide +kernel

theorem test_witness_ReceiverDiscards :
    shop.io.mWaiting = none ∧ (shop.port (.c 0)).receiver = .hunt ∧ (shop.port .m).receiver = .hunt ∧
    ((listening shop .p .skip).port .p).receiver = .skip ∧
    ((listening shop .p (.receive [])).port .p).receiver = .receive [] ∧
    ((listening shop .p (.receive [0x20])).port .p).receiver = .receive [0x20] ∧ 120 < (121 : Byte).toNat ∧
    (120 : Byte).toNat ≤ 120 ∧
    ((listening shop .p (.receive (0x20 :: 0 :: 0x22 :: ([] ++ [0])))).port .p).receiver = .receive (0x20 :: 0 :: 0x22 :: ([] ++ [0])) ∧
    (0 : Byte) ++ (0 : Byte) ≠ crc16 [0x20, 0, 0x22] ∧
    (let c := crc16 [0x20, 0, 0x22];
      ((listening shop .p (.receive (Link.p.address :: 0 :: 0x22 :: ([] ++ [c.extractLsb' 8 8])))).port .p).receiver =
          .receive (Link.p.address :: 0 :: 0x22 :: ([] ++ [c.extractLsb' 8 8])) ∧
        c.extractLsb' 8 8 ++ c.extractLsb' 0 8 = crc16 [Link.p.address, 0, 0x22]) ∧
    ((listening shop .p (.receive [0x20, 120, 0])).port .p).receiver = .receive [0x20, 120, 0] ∧ [(0 : Byte)].length + 1 ≠ 120 + 3 := by
  decide +kernel

theorem test_witness_ReceiverDiscards_composes : ∃ t, exec (.frameDiscarded .p [⟨0x20, false⟩]) shop = .next t := ⟨_, rfl⟩

theorem test_witness_WaitingResponseAndQuietLine :
    (shop.respond .m ⟨.ok, []⟩).io.mWaiting = some ⟨.ok, []⟩ ∧ (shop.respond .m ⟨.ok, []⟩).io.mPort.receiver = .hunt ∧
    (shop.respond .m ⟨.ok, []⟩).io.mSent + 1 < ((⟨.ok, []⟩ : Response).bytes .m).length ∧
    ((⟨.ok, []⟩ : Response).bytes .m).length = 6 ∧ (0 : Byte) ≠ 0xA5 ∧ (shop.respond .m ⟨.ok, []⟩).io.mSent = 0 ∧
    (List.replicate 6 (0 : Byte)).length = ((⟨.ok, []⟩ : Response).bytes .m).length ∧ (∀ x ∈ List.replicate 6 (0 : Byte), x ≠ 0xA5) ∧
    shop.io.mWaiting = none ∧
    (shop.port (.c 0)).receiver = .hunt ∧ ((listening shop .m (.receive [0x30])).port .m).receiver = .receive [0x30] ∧
    ((listening shop .p .skip).port .p).receiver = .skip := by decide +kernel

theorem test_witness_WaitingResponse_completes : ∃ t, exec (.frameDiscarded .m [⟨0, false⟩]) shop = .next t := ⟨_, rfl⟩

/-! ### Witnesses: LOAD -/

theorem test_witness_LoadOpensRun :
    (shop.deaf (.c 2) = false ∧ shop.stations[2].state = .enabled ∧ shop.job 2 = none ∧ shop.active = some .a ∧
      shop.reserved < 256 - shop.log.length ∧ (0 : Byte).toNat = mono0.media.val ∧ (0 : Byte).toNat = mono0.colour.code ∧
      (1 : Byte).toNat = mono0.sides.code) ∧
    (shop.sessionOpen 2 = false ∧ shop.isRemote 0xFFFFFFEF = false ∧ shop.stations[2].flags.accountRuns = true ∧
      shop.houseRecord 0xFFFFFFEF = some (account 0xFFFFFFEF .opened 8 []) ∧ shop.houseRecord 1 = some (account 1 .opened 0 [])) ∧
    (let s := withSession shop (sessionOf .opened [authFor 1 .pending]) [];
      s.job 2 = none ∧ s.sessions[2] = some (sessionOf .opened [authFor 1 .pending]) ∧ s.stations[2].flags.cardRuns = true ∧
        s.cards[2] = some { balance := 300, held := 0, runList := [] }) ∧
    (let s := { routed with mirrors := [mirrorOf 0x8A100A3C .active] };
      s.isRemote 0x8A100A3C = true ∧ s.mirrorOf 0x8A100A3C = some (mirrorOf 0x8A100A3C .active) ∧
        s.stations[2].flags.remoteRuns = true ∧ s.job 2 = none ∧ s.sessionOpen 2 = false) := by decide +kernel

theorem test_witness_LoadOpensReferral :
    (routed.deaf (.c 2) = false ∧ routed.stations[2].state = .enabled ∧ routed.job 2 = none ∧ routed.active = some .a ∧
      routed.reserved < 256 - routed.log.length ∧ routed.sessionOpen 2 = false ∧ routed.isRemote 0x8A1FFFFF = true ∧
      routed.stations[2].flags.remoteRuns = true ∧ routed.mirrorOf 0x8A1FFFFF = none ∧ routed.mirrors.length < 16) ∧
    (let s := { routed with referrals := [referralOf 255 .opening .waiting 8, referralOf 1 .topup .fetched 0], referralNextId := 255 };
      s.referrals.length ≤ 8 ∧ s.referralNextId ≤ 255 ∧ s.nextReferralId = 2) ∧
    (∀ r ∈ routed.referrals, r.id ≠ routed.referralNextId) := by decide +kernel

theorem test_witness_LoadRefusals :
    ((shopAt .draining none).deaf (.c 2) = false ∧ (shopAt .draining none).stations[2].state = .draining) ∧
    ((shopRun .active 0 0 0 []).job 2 ≠ none ∧ shop.job 2 = none ∧ ({ shop with active := none }).active = none) ∧
    (256 - ({ shop with log := logOf 256 }).log.length ≤ shop.reserved ∧ shop.reserved < 256 - ({ shop with log := logOf 255 }).log.length) ∧
    (shop.sessionOpen 2 = false ∧
      (let s := withSession { shop with stations := shop.stations.set 2 { shop.stations[2] with flags := ⟨false, false, false⟩ } }
          (sessionOf .opened []) [];
        s.sessionOpen 2 = true ∧ s.stations[2].flags.cardRuns = false)) ∧
    (0xFFFFFFF0 ≤ (0xFFFFFFF0 : Word).toNat ∧ 1 ≤ (1 : Word).toNat ∧ (0xFFFFFFEF : Word).toNat ≤ 0xFFFFFFEF) ∧
    (let s := { routed with
        stations := routed.stations.set 2 { routed.stations[2] with flags := ⟨false, false, false⟩ } };
      s.isRemote 0x8A100000 = true ∧ s.isRemote 2001 = false ∧ s.stations[2].flags.remoteRuns = false ∧
        s.stations[2].flags.accountRuns = false) ∧
    (({ routed with mirrors := [mirrorOf 0x8A100A3C .pending] }).mirrorOf 0x8A100A3C = some (mirrorOf 0x8A100A3C .pending) ∧
      16 ≤ (List.replicate 16 (mirrorOf 0x8A100A3C .active)).length ∧
      ({ routed with mirrors := List.replicate 16 (mirrorOf 0x8A100A3C .active) }).mirrorOf 0x8A1FFFFF = none) ∧
    (shop.houseRecord 2 = none ∧ shop.houseRecord 2002 = some (account 2002 .frozen 0 []) ∧
      shop.houseRecord 2003 = some (account 2003 .opened 1 [3])) := by decide +kernel

/-! ### Witnesses: credit, prices and bursts -/

theorem test_witness_HoldGrowth :
    (1 ≤ 1 ∧ 1 ≤ shop.params.holdStep ∧ shop.params.holdStep ∣ 200 ∧ 1 ≤ 200 ∧ 200 < 1 + shop.params.holdStep) ∧
    (1001 ≤ 1200 ∧ shop.params.holdStep ∣ 1200 ∧ 1200 < 1001 + shop.params.holdStep) ∧
    (shop.isFrozen .house 2002 = true ∧ shop.isFrozen .house 2001 = false ∧ (200 : Int) ≤ shop.available .house 2001 ∧
      shop.available .house 2001 < 1200 ∧ (1000 : Int) ≤ shop.available .house 2001 ∧ shop.available .house 2001 < 1001) := by
  decide +kernel

theorem test_witness_SheetPrice :
    (shopPrices.back ≤ 100 ∧ shopPrices.base[(0 : SheetKind)] ≤ 65535 ∧ shopPrices.base[(0 : SheetKind)] = 1250 ∧
      shopPrices.back = 55 ∧ ({ shopPrices with back := 100 }).back = 100 ∧ ({ shopPrices with back := 0 }).back = 0) ∧
    (shopPrices.breaks[0].threshold ≠ 0 ∧ shopPrices.breaks[0].threshold ≤ 3 ∧
      (∀ j : Fin 4, (shopPrices.breaks[j].threshold ≠ 0 ∧ shopPrices.breaks[j].threshold ≤ 3) → j ≤ 0) ∧
      (∀ i : Fin 4, ¬ (shopPrices.breaks[i].threshold ≠ 0 ∧ shopPrices.breaks[i].threshold ≤ 2))) ∧
    (discountFor shopPrices 2 = 0 ∧
      discountFor { shopPrices with breaks := #v[⟨1, 1000⟩, ⟨1, 1000⟩, ⟨0, 0⟩, ⟨0, 0⟩] } 1 = 1000 ∧
      rawPrice shopPrices 0 .duplex ≤ 131070) := by decide +kernel

theorem test_witness_SheetTestsInOrder :
    (shopRun .active 9999 0 0 []).job 2 = some (runOf .active .house 2001 9999 0 0) ∧ 9999 ≤ 9999 ∧
    (16 ≤ (shopRun .active 9998 0 0 (sheets (List.range 16))).paths[2].length) ∧
    ((0 + 1937 + 99) / 100 - 0 ≤ (runOf .active .house 2001 0 0 20).hold) ∧
    ((runOf .active .house 2001 0 0 19).hold < (0 + 1937 + 99) / 100 - 0) ∧
    (shopRun .active 0 0 19 []).growthFor .house 2001 (20 - 19) = .grown 200 ∧
    (withRun shop (runOf .active .house 2002 0 0 0) []).growthFor .house 2002 20 = .failed .frozen := by decide +kernel

theorem test_witness_AdvanceGrantsBurst :
    ((shopRun .starved 0 0 0 []).deaf (.c 2) = false ∧ (shopRun .starved 0 0 0 []).stations[2].state = .enabled ∧
      readOverrides [⟨2, 0⟩, ⟨1, 15⟩] ⟨none, none⟩ ≠ none ∧ (1 : Half).toNat = (runOf .starved .house 2001 0 0 0).granted + 1) ∧
    (∃ u, ((shopRun .active 0 0 0 []).handOn (.c 2)).trySheet 2 0 .duplex = .granted u ∧
      ((shopRun .active 0 0 0 []).handOn (.c 2)).grants 2 0 .duplex 1 u ∧ (u.job 2).isSome = true) ∧
    (let s := withRun { routed with mirrors := [{ mirrorOf 0x8A100A3C .active with credit := ⟨0, 0, [2]⟩ }] }
        (runOf .active .mirror 0x8A100A3C 0 0 0) [];
      (s.handOn (.c 2)).grants 2 0 .duplex 0 (s.handOn (.c 2)) ∧ s.topupWaits 0x8A100A3C = false ∧
        (s.handOn (.c 2)).trySheet 2 0 .duplex = .stopped .noCredit 20) :=
  ⟨by decide +kernel, ⟨_, rfl, ⟨_, rfl, rfl⟩, by decide +kernel⟩, rfl, by decide +kernel⟩

theorem test_witness_AdvanceOverridesRepeatsAndRefusals :
    (readOverrides [⟨1, 15⟩] ⟨none, none⟩ ≠ none ∧ readOverrides [⟨2, 1⟩] ⟨none, none⟩ ≠ none ∧
      readOverrides [⟨1, 15⟩, ⟨2, 1⟩] ⟨none, none⟩ ≠ none ∧ readOverrides [⟨2, 1⟩, ⟨2, 1⟩] ⟨none, none⟩ = none ∧
      readOverrides [⟨2, 0⟩, ⟨1, 15⟩] ⟨none, none⟩ ≠ none ∧ readOverrides [⟨3, 0⟩] ⟨none, none⟩ = none ∧
      readOverrides [⟨1, 16⟩] ⟨none, none⟩ = none ∧ readOverrides [⟨2, 2⟩] ⟨none, none⟩ = none ∧
      readOverrides [] ⟨none, none⟩ ≠ none) ∧
    ((shopAt .draining none).stations[2].state = .draining ∧ shop.job 2 = none ∧
      ((shopRun .referral 0 0 0 []).job 2).map (fun j => j.state) = some .referral ∧
      ((shopRun .jammed 0 0 0 []).job 2).map (fun j => j.state) = some .jammed ∧
      ((shopRun .finishing 0 0 0 []).job 2).map (fun j => j.state) = some .finishing) ∧
    (let j := { runOf .active .house 2001 4 7360 200 with lastBurst := some ⟨1, 4, .none, 200, 7360⟩ };
      (withRun shop j (sheets [1, 2, 3, 4])).job 2 = some j ∧ (1 : Half).toNat ≠ j.granted + 1) ∧
    (runOf .starved .house 2001 4 0 0).lastBurst = none := by decide +kernel

/-! ### Witnesses: the run's other requests -/

theorem test_witness_QueryAnswers :
    shop.deaf (.c 2) = false ∧ shop.stations[2].state = .enabled ∧ shop.job 2 = none ∧
    (shopRun .starved 0 0 0 []).job 2 = some (runOf .starved .house 2001 0 0 0) := by decide +kernel

theorem test_witness_EndRunAndRunAbort :
    ((shopRun .active 0 0 0 []).job 2 = some (runOf .active .house 2001 0 0 0) ∧ (shopRun .active 0 0 0 []).paths[2] = [] ∧
      (shopRun .starved 1 100 1 (sheets [1])).paths[2] ≠ [] ∧
      (shopRun .jammed 0 0 0 []).job 2 = some (runOf .jammed .house 2001 0 0 0) ∧
      (shopRun .finishing 1 100 1 (sheets [1])).job 2 = some (runOf .finishing .house 2001 1 100 1) ∧
      (shopRun .referral 0 0 0 []).job 2 = some (runOf .referral .house 2001 0 0 0)) ∧
    (7 < (8 : Byte).toNat ∧ (7 : Byte).toNat = (7 : Station).val ∧ shop.deaf .m = false ∧ shop.job 7 = none ∧
      (2 : Byte).toNat = (2 : Station).val) := by decide +kernel

theorem test_witness_RunEnds :
    (shopRun .active 1 100 1 (sheets [1])).job 2 = some (runOf .active .house 2001 1 100 1) ∧
    (runOf .active .house 2001 1 100 1).Law (sheets [1]) ∧
    (withRun routed (runOf .referral .mirror 0x8A100A3C 0 0 0) []).job 2 = some (runOf .referral .mirror 0x8A100A3C 0 0 0) :=
  ⟨by decide +kernel,
    ⟨by decide, by decide, by decide, by decide, by decide, by decide, by decide, by decide, by decide, by decide⟩, by decide +kernel⟩

theorem test_witness_RunTimerExpiries :
    (shop.job 2 = none ∧ shop.stations[2].state ≠ .held ∧ shop.stations[2].presence ≠ .silent) ∧
    (withRun shop { runOf .active .house 2001 0 0 0 with idleTimer := some 0 } []).job 2 =
      some { runOf .active .house 2001 0 0 0 with idleTimer := some 0 } ∧
    (runOf .active .house 2001 0 0 0).idleTimer ≠ some 0 ∧
    (({ shopRun .jammed 0 0 0 [] with jamTimers := shop.jamTimers.set 2 (some 0) }).jamTimers[2] = some 0 ∧
      shop.jamTimers[2] ≠ some 0) ∧
    (({ shopRun .referral 0 0 0 [] with lostTimers := shop.lostTimers.set 2 (some 0) }).lostTimers[2] = some 0 ∧
      shop.lostTimers[2] ≠ some 0) := by decide +kernel

theorem test_witness_SheetsBroughtOut :
    (shopRun .active 2 200 200 (sheets [1, 2])).job 2 = some (runOf .active .house 2001 2 200 200) ∧
    shop.params.interimInterval ≠ 0 ∧ ¬ shop.params.interimInterval ≤ 0 + 2 ∧ shop.params.interimInterval ≤ 99 + 1 ∧
    256 - ({ shop with log := logOf 255 }).log.length ≤ 1 ∧ (1 : Nat) < 256 - ({ shop with log := logOf 254 }).log.length ∧
    200 - ((sheets [2]).map (fun e => e.price)).sum - 0 < 101 ∧ 100 ≤ 200 - ((sheets [2]).map (fun e => e.price)).sum - 0 := by
  decide +kernel

theorem test_witness_DeliveredDelivers :
    (let s := shopRun .finishing 3 300 3 (sheets [1, 2, 3]);
      s.deaf (.c 2) = false ∧ s.stations[2].state = .enabled ∧ s.job 2 = some (runOf .finishing .house 2001 3 300 3) ∧
        s.paths[2] = sheets [1, 2] ++ sheets [3] ∧ (∀ e ∈ sheets [1, 2], e.seq ≤ (2 : Half).toNat) ∧
        (∀ e ∈ (sheets [3]).head?, (2 : Half).toNat < e.seq) ∧
        (((s.handOn (.c 2)).bringOut 2 2).1.job 2).isSome = true ∧ s.paths[2] = sheets [1, 2, 3] ++ []) ∧
    ((shopRun .active 1 100 1 (sheets [1])).job 2).isSome = true ∧
    (shop.job 2 = none ∧ (shopRun .referral 0 0 0 []).job 2 = some (runOf .referral .house 2001 0 0 0) ∧
      (shopRun .jammed 0 0 0 []).job 2 = some (runOf .jammed .house 2001 0 0 0) ∧
      (∀ e ∈ (sheets [1]).head?, (0 : Half).toNat < e.seq)) := by decide +kernel

theorem test_witness_JamLosesSheets :
    (let s := shopRun .active 3 300 3 (sheets [1, 2, 3]);
      s.deaf (.c 2) = false ∧ s.stations[2].state = .enabled ∧ s.job 2 = some (runOf .active .house 2001 3 300 3) ∧
        s.paths[2] = sheets [1] ++ sheets [2, 3] ∧ (∀ e ∈ sheets [1], e.seq ≤ (1 : Half).toNat) ∧
        (∀ e ∈ (sheets [2, 3]).head?, (1 : Half).toNat < e.seq) ∧
        (((s.handOn (.c 2)).bringOut 2 (1 + min 1 2)).1.job 2).isSome = true) ∧
    (shopRun .finishing 3 300 3 (sheets [1, 2, 3])).job 2 = some (runOf .finishing .house 2001 3 300 3) := by decide +kernel

theorem test_witness_JamCountedAndClear :
    shop.deaf (.c 2) = false ∧ shop.stations[2].state = .enabled ∧ shop.job 2 = none ∧
    (shopRun .referral 0 0 0 []).job 2 = some (runOf .referral .house 2001 0 0 0) ∧
    (withRun shop { runOf .jammed .house 2001 0 0 0 with jams := 255 } []).job 2 =
      some { runOf .jammed .house 2001 0 0 0 with jams := 255 } := by decide +kernel

/-! ### Witnesses: card sessions and captures -/

theorem test_witness_AuthNoticeAnswers :
    (shop.deaf .p = false ∧ (7 : Byte).toNat = (7 : Station).val ∧ 7 < (8 : Byte).toNat ∧ (100000 : Word).toNat ≤ 100000 ∧
      100000 < (100001 : Word).toNat ∧ 1 ≤ (1 : Word).toNat ∧ (0 : Word).toNat = 0) ∧
    (shop.stations[2].flags.cardRuns = true ∧ shop.stations[2].state = .enabled ∧ shop.sessions[2] = none ∧ shop.job 2 = none ∧
      shop.reserved < 256 - shop.log.length ∧ (3 : Byte).toNat = (3 : Fin 4).val ∧ shop.params.cardMap[(3 : Fin 4)] = 3 ∧
      3 < (4 : Byte).toNat ∧ shop.params.cardMap[0] = 0) ∧
    (let x := sessionOf .opened [authFor 1 .pending, authFor 2 .pending];
      let s := withSession (shopAt .draining none) x [];
      s.stations[2].state = .draining ∧ s.sessions[2] = some x ∧ s.cards[2] = some { balance := 300, held := 0, runList := [] } ∧
        (∀ a ∈ x.auths, a.reference ≠ 3) ∧ x.auths.length < 3 ∧
        x.auths.find? (fun a => a.reference == 2) = some (authFor 2 .pending)) ∧
    ((shopAt .off none).stations[2].state = .off ∧ (shopAt .held (some .draining)).stations[2].state = .held ∧
      (shopRun .active 0 0 0 []).job 2 ≠ none ∧ 256 - ({ shop with log := logOf 256 }).log.length ≤ shop.reserved ∧
      (sessionOf .closing []).state ≠ .opened ∧
      3 ≤ (sessionOf .opened [authFor 1 .pending, authFor 2 .pending, authFor 3 .pending]).auths.length) := by decide +kernel

theorem test_witness_SessionQueryAndCaptureHead :
    shop.deaf .p = false ∧ shop.deaf .m = false ∧ 7 < (8 : Byte).toNat ∧ (7 : Byte).toNat = (7 : Station).val ∧
    shop.sessions[7] = none ∧
    (withSession shop (sessionOf .capturing [authFor 1 .pending]) [orderFor 1]).sessions[2] =
      some (sessionOf .capturing [authFor 1 .pending]) ∧
    shop.captureQueue = [] ∧ (withSession shop (sessionOf .capturing []) [orderFor 1]).captureQueue = [orderFor 1] := by decide +kernel

theorem test_witness_SessionLeavesOpen :
    (300 ≤ (([authFor 1 .pending]).map (fun a => a.amount)).sum) ∧
    (let x := sessionOf .opened [authFor 1 .pending];
      (shop.closingWait = [] ∧ (List.replicate 15 (orderFor 9)).length + x.auths.length ≤ 16) ∧
        16 < (List.replicate 16 (orderFor 9)).length + x.auths.length ∧ ({ shop with closingWait := [3] }).closingWait ≠ []) := by
  decide +kernel

theorem test_witness_EndSessionByState :
    shop.deaf (.c 2) = false ∧ shop.stations[2].state = .enabled ∧ shop.sessions[2] = none ∧
    (withSession shop (sessionOf .closing []) []).sessions[2] = some (sessionOf .closing []) ∧
    (let s := withSession shop (sessionOf .opened [authFor 1 .pending]) [];
      s.sessions[2] = some (sessionOf .opened [authFor 1 .pending]) ∧ s.job 2 = none ∧
        (((s.handOn (.c 2)).leaveOpen 2 (sessionOf .opened [authFor 1 .pending])).sessions[2]).isSome = true) ∧
    (withRun (withSession shop (sessionOf .opened []) []) (runOf .active .card 0xFFFFFFF2 0 0 0) []).job 2 ≠ none := by decide +kernel

theorem test_witness_PollAnswers :
    shop.deaf .p = false ∧ shop.captureQueue = [] ∧
    (withSession shop (sessionOf .capturing [authFor 1 .pending]) [orderFor 1]).captureQueue = orderFor 1 :: [] := by decide +kernel

theorem test_witness_HeadOrderRemoved :
    (let x := sessionOf .capturing [authFor 1 .pending, authFor 2 .pending];
      let s := withSession shop x [orderFor 1, orderFor 2];
      s.captureQueue = orderFor 1 :: [orderFor 2] ∧ s.sessions[(orderFor 1).station] = some x ∧
        (∃ a ∈ x.auths.map (fun a => if a.reference = 1 then { a with outcome := .done } else a), a.outcome = .pending)) ∧
    (let x := sessionOf .capturing [authFor 1 .pending];
      (withSession shop x [orderFor 1]).captureQueue = orderFor 1 :: [] ∧
        (∀ a ∈ x.auths.map (fun a => if a.reference = 1 then { a with outcome := .failed } else a), a.outcome ≠ .pending)) ∧
    (let s := withSession shop (sessionOf .closing [authFor 1 .pending]) [];
      s.sessions[2] = some (sessionOf .closing [authFor 1 .pending]) ∧ s.captureQueue.length + 1 ≤ 16 ∧
        16 < (List.replicate 16 (orderFor 9)).length + 1) := by decide +kernel

theorem test_witness_CaptureOutcomes :
    (let s := withSession shop (sessionOf .capturing [authFor 1 .pending]) [orderFor 1];
      s.deaf .p = false ∧ s.deaf .m = false ∧ s.captureQueue = orderFor 1 :: [] ∧
        s.sessions[(orderFor 1).station] = some (sessionOf .capturing [authFor 1 .pending]) ∧ (orderFor 1).reference = 1 ∧
        (orderFor 1).reference ≠ 2 ∧ (orderFor 1).station.val = (2 : Byte).toNat) ∧
    shop.captureQueue = [] ∧ (0 : Byte).toNat ≠ 1 ∧ (3 : Byte).toNat ≠ 2 ∧ (1 : Byte).toNat = 1 ∧ (2 : Byte).toNat = 2 := by
  decide +kernel

theorem test_witness_SessionTimerExpiries :
    (let x := { sessionOf .opened [authFor 1 .pending] with idleTimer := some 0 };
      let s := withSession shop x [];
      s.sessions[2] = some x ∧ x.state = .opened ∧ s.stations[2].state ≠ .held ∧ s.job 2 = none) ∧
    ((shopAt .held (some .enabled)).stations[2].state = .held ∧ shop.sessions[2] = none) ∧
    ({ shop with stallTimer := some 0 }).stallTimer = some 0 ∧ shop.stallTimer ≠ some 0 := by decide +kernel

/-! ### Witnesses: the account table -/

theorem test_witness_AcctCreate :
    (shop.deaf .m = false ∧ 0xFFFFFFEF < (0xFFFFFFF0 : Word).toNat ∧ (3 : Byte).toNat ≠ 2 ∧ 3 < (4 : Byte).toNat ∧
      10000000 < (10000001 : Word).toNat ∧ (2 : Byte).toNat = AcctKind.postpaid.code ∧ (3 : Byte).toNat = (3 : Tier).val ∧
      (10000000 : Word).toNat ≤ 10000000) ∧
    (routed.isRemote 0x8A100000 = true ∧ shop.isRemote 2 = false ∧ shop.houseRecord 2001 ≠ none ∧ shop.houseRecord 2 = none ∧
      512 ≤ (List.replicate 512 (account 1 .opened 0 [])).length ∧ shop.house.length < 512) ∧
    ((BitVec.ofInt 32 (-10000001)).toInt < -10000000 ∧ 99999999 < (100000000 : Word).toInt ∧
      -10000000 ≤ (BitVec.ofInt 32 (-10000000)).toInt ∧ (99999999 : Word).toInt ≤ 99999999 ∧ (0 : Word).toInt = 0 ∧
      256 - ({ shop with log := logOf 256 }).log.length ≤ shop.reserved ∧ shop.reserved < 256 - shop.log.length) ∧
    (shop.house.Pairwise (fun x y => x.number.toNat < y.number.toNat) ∧ (∀ x ∈ shop.house, x.number ≠ 2)) := by decide +kernel

theorem test_witness_AcctUpdate :
    ((0 : Word).toNat = 0 ∧ 0xFFFFFFF8 ≤ (0xFFFFFFF8 : Word).toNat ∧ (0xFFFFFFF7 : Word).toNat ≤ 0xFFFFFFF7 ∧
      routed.isRemote 0x8A100000 = true ∧ shop.isRemote 2003 = false ∧ shop.houseRecord 2 = none ∧
      shop.houseRecord 2003 = some (account 2003 .opened 1 [3])) ∧
    ((0x01 : Byte).getLsbD 0 = true ∧ 3 < (4 : Byte).toNat ∧ (0x08 : Byte).getLsbD 3 = true ∧ (3 : Byte).toNat ≠ 2 ∧
      (0x02 : Byte).getLsbD 1 = true ∧ (0x04 : Byte).getLsbD 2 = true ∧ (0x10 : Byte).getLsbD 4 = true) ∧
    (min 8 (1 : Byte).toNat ≠ 0 ∧ min 8 (1 : Byte).toNat < [(0 : Station), 1].length ∧ [(3 : Station)].length ≤ min 8 (1 : Byte).toNat) ∧
    (99999999 < (1000 : Int) + (99999000 : Word).toInt ∧ (1000 : Int) + (99998999 : Word).toInt ≤ 99999999 ∧
      (1000 : Int) + (BitVec.ofInt 32 (-1001)).toInt - 0 < -(0 : Int) ∧
      -(0 : Int) ≤ (1000 : Int) + (BitVec.ofInt 32 (-1000)).toInt - 0) ∧
    (1 : Tier).val = (1 : Byte).toNat ∧ AcctState.frozen.code = (2 : Byte).toNat := by decide +kernel

theorem test_witness_AcctReadAndNext :
    (shop.deaf .m = false ∧ (0xFFFFFFF7 : Word).toNat = 0xFFFFFFF0 + (7 : Station).val ∧ shop.cards[7] = none ∧
      (withSession shop (sessionOf .opened []) []).cards[2] = some { balance := 300, held := 0, runList := [] } ∧
      (withSession shop (sessionOf .opened []) []).sessions[2] = some (sessionOf .opened [])) ∧
    (routed.isRemote 0x8A100A3C = true ∧ routed.mirrorOf 0x8A100A3C = none ∧
      ({ routed with mirrors := [mirrorOf 0x8A100A3C .pending] }).mirrorOf 0x8A100A3C = some (mirrorOf 0x8A100A3C .pending) ∧
      shop.isRemote 1 = false ∧ shop.houseRecord 1 = some (account 1 .opened 0 []) ∧ shop.houseRecord 2 = none) ∧
    (shop.house.Pairwise (fun x y => x.number.toNat < y.number.toNat) ∧
      (∀ x ∈ shop.house, x.number.toNat ≤ (0xFFFFFFEF : Word).toNat) ∧ account 1 .opened 0 [] ∈ shop.house ∧
      (∀ x ∈ shop.house, (0 : Word).toNat < x.number.toNat → (1 : Word).toNat ≤ x.number.toNat)) := by decide +kernel

theorem test_witness_AcctDelete :
    shop.houseRecord 2001 = some (account 2001 .opened 0 [2]) ∧ (account 2001 .opened 0 [2]).credit.runList ≠ [] ∧
    (account 1 .opened 0 []).credit.runList = [] ∧ (account 1 .opened 0 []).credit.balance ≠ 0 ∧
    (let r := { account 1 .opened 0 [] with credit := ⟨0, 0, []⟩ };
      ({ shop with house := [r] }).houseRecord 1 = some r ∧ r.credit.runList = [] ∧ r.credit.balance = 0) ∧
    shop.houseRecord 2 = none ∧ routed.isRemote 0x8A100000 = true ∧ 0xFFFFFFF0 ≤ (0xFFFFFFF0 : Word).toNat := by decide +kernel

/-! ### Witnesses: the price banks -/

theorem test_witness_PriceWriteStores :
    (shop.deaf .m = false ∧ priceWriteLengthOk 33 = true ∧ priceWriteLengthOk 1 = true ∧ priceWriteLengthOk 16 = true ∧
      (2 : Byte).toNat = BankName.b.code ∧ (3 : Byte).toNat = (3 : Tier).val ∧ 3 < (4 : Byte).toNat ∧ (3 : Byte).toNat ≠ 2 ∧
      (0 : Byte).toNat ≠ 1) ∧
    (shop.active = some .a ∧ ¬ (shop.active = some .b ∨ (shop.bank .b).users ≠ 0) ∧
      ({ shop with bankB := { shop.bankB with users := 1 } }).bankB.users ≠ 0) ∧
    ((15 : Byte) :: [(7 : Half)].flatMap (fun v => be2 v.toNat) = [15, 0, 7] ∧ 15 + [(7 : Half)].length ≤ 16 ∧
      16 < 15 + [(7 : Half), 8].length ∧ 15 < (16 : Byte).toNat) ∧
    (9999 < (10000 : Half).toNat ∧ (9999 : Half).toNat ≤ 9999 ∧
      priceWriteLengthOk ([1, 1000, 2, 0, 3, 0, 4, 0].flatMap (fun v : Half => be2 v.toNat)).length = true) ∧
    (priceWriteLengthOk [(0 : Byte)].length = true ∧ [(0 : Byte), 1, 2].length % 2 ≠ 0 ∧ (List.replicate 16 (0 : Byte)).length % 2 = 0 ∧
      priceWriteLengthOk (List.replicate 16 (0 : Byte)).length = true) := by decide +kernel

theorem test_witness_PriceReadAndSwap :
    shop.deaf .m = false ∧ (1 : Byte).toNat = BankName.a.code ∧ (0 : Byte).toNat ≠ 1 ∧ (3 : Byte).toNat ≠ 2 ∧
    shop.active = some .a ∧ shop.active ≠ some .b ∧ 256 - ({ shop with log := logOf 256 }).log.length ≤ shop.reserved ∧
    shop.reserved < 256 - ({ shop with log := logOf 255 }).log.length := by decide +kernel

theorem test_witness_BanksInUseAreNeverWritten :
    (Instr.priceWrite .m (.of ⟨1, 0, 2, [9]⟩)).resets = false ∧ (Instr.priceWrite .m (.of ⟨1, 0, 2, [9]⟩)).isLineActivity = false ∧
    (∃ t, exec (.priceWrite .m (.of ⟨1, 0, 2, [9]⟩)) shop = .next t) ∧ shop.active = some .a := ⟨rfl, rfl, ⟨_, rfl⟩, rfl⟩

/-! ### Witnesses: referrals -/

theorem test_witness_ReferralFetchMarks :
    shop.deaf .m = false ∧ (∀ r ∈ shop.referrals, r.state ≠ .waiting) ∧
    (let s := { routed with
        referrals := [referralOf 1 .opening .fetched 8, referralOf 2 .opening .waiting 8], mirrors := [mirrorOf 0x8A100A3C .active] };
      s.referrals = [referralOf 1 .opening .fetched 8] ++ referralOf 2 .opening .waiting 8 :: [] ∧
        (∀ x ∈ [referralOf 1 .opening .fetched 8], x.state ≠ .waiting) ∧ (s.referrals.map (fun x => x.id)).Nodup ∧
        s.mirrorOf 0x8A100A3C = some (mirrorOf 0x8A100A3C .active) ∧ (referralOf 2 .topup .waiting 8).kind = .topup) := by
  decide +kernel

theorem test_witness_ReferralListAnswers : shop.deaf .m = false ∧ State.reset.SheetLaw :=
  ⟨by decide +kernel, ⟨by decide, fun _ => by simp [State.RunLaw, State.job, State.reset, Run.idle], ⟨List.nodup_nil, List.nodup_nil, by intro r h; cases h⟩⟩⟩

theorem test_witness_ReferralRepliesAndTimeouts :
    ((0 : Byte).toNat = 0 ∧ (3 : Byte).toNat ≠ 2 ∧ 1000000 < (1000001 : Word).toNat ∧ (1000000 : Word).toNat ≤ 1000000 ∧
      1 ≤ (1 : Word).toNat ∧ 3 < (4 : Byte).toNat ∧ (3 : Byte).toNat ≤ 3 ∧ (3 : Byte).toNat = (3 : Tier).val) ∧
    (let s := withRun { routed with referrals := [referralOf 255 .opening .fetched 0], mirrors := [mirrorOf 0x8A100A3C .pending] }
        (runOf .referral .mirror 0x8A100A3C 0 0 0) [];
      (∀ r ∈ s.referrals, r.id ≠ 254) ∧
        s.referrals.find? (fun x => x.id == (255 : Byte).toNat) = some (referralOf 255 .opening .fetched 0) ∧
        s.job (referralOf 255 .opening .fetched 0).station = some (runOf .referral .mirror 0x8A100A3C 0 0 0) ∧
        s.mirrorOf 0x8A100A3C = some (mirrorOf 0x8A100A3C .pending) ∧ (referralOf 255 .opening .fetched 0).timeout = 0 ∧
        (referralOf 255 .opening .fetched 1).timeout ≠ 0) ∧
    (let s := { routed with referrals := [referralOf 1 .topup .waiting 0], mirrors := [mirrorOf 0x8A100A3C .active] };
      s.referrals.find? (fun x => x.id == (1 : Byte).toNat) = some (referralOf 1 .topup .waiting 0) ∧
        s.mirrorOf 0x8A100A3C = some (mirrorOf 0x8A100A3C .active)) := by decide +kernel

/-! ### Witnesses: the log, the links, the stations and the console's services -/

theorem test_witness_LogReadReleaseAndStatus :
    shop.log = [] ∧
    (let s := { shop with log := logOf 5 };
      s.log = logOf 4 ++ s.log.drop 4 ∧ s.log ≠ [] ∧ (logOf 4).length ≤ 4 ∧ ((logOf 4).flatMap LogRecord.bytes).length ≤ 119 ∧
        (∀ r ∈ s.log, r.seq ≠ (0 : Half).toNat) ∧ s.log = logOf 4 ++ { seq := 5, entry := .swap .a 1 } :: [] ∧
        (∀ x ∈ logOf 4, x.seq ≠ (5 : Half).toNat)) := by decide +kernel

theorem test_witness_MeterReadAnswers :
    shop.deaf .m = false ∧ 7 < (8 : Byte).toNat ∧ (7 : Byte).toNat = (7 : Station).val := by decide +kernel

theorem test_witness_LinkStatsAnswers :
    shop.deaf .m = false ∧ 7 < (8 : Byte).toNat ∧ (8 : Byte) ≠ 0x20 ∧ (8 : Byte) ≠ 0x30 ∧ (7 : Byte).toNat = (7 : Station).val ∧
    (0x20 : Byte) = 0x20 ∧ (1 : Byte) ≠ 0 := by decide +kernel

theorem test_witness_StationSetActions :
    (shop.deaf .m = false ∧ 7 < (8 : Byte).toNat ∧ (2 : Byte).toNat = (2 : Station).val ∧ (6 : Byte) ≠ 0 ∧ some (7 : Byte) ≠ none) ∧
    ((shopAt .off none).stations[2].state = .off ∧ shop.stations[2].state = .enabled ∧
      (shopAt .draining none).stations[2].state = .draining ∧ (shopAt .held (some .enabled)).stations[2].prior = some .enabled ∧
      (shopAt .held (some .draining)).stations[2].prior = some .draining) ∧
    ((shop.job 2 = none ∧ shop.sessionOpen 2 = false ∧ shop.sessions[2] = none) ∧ (shopRun .active 0 0 0 []).job 2 ≠ none ∧
      (withSession shop (sessionOf .capturing []) []).sessions[2] ≠ none) := by decide +kernel

theorem test_witness_StationReadAnswers :
    shop.deaf .m = false ∧ 7 < (8 : Byte).toNat ∧ (2 : Byte).toNat = (2 : Station).val ∧ shop.job 2 = none ∧
    (shopRun .active 0 0 0 []).job 2 = some (runOf .active .house 2001 0 0 0) := by decide +kernel

theorem test_witness_AttentionAndItsLines : shop.deaf .m = false := by decide +kernel

theorem test_witness_SetParamStores :
    (shop.deaf .m = false ∧ (0 : Byte).toNat = 0 ∧ 18 < (19 : Byte).toNat ∧ (14 : Byte).toNat = 11 + (3 : Fin 4).val ∧
      (3 : Tier).val = min 3 (4 : Word).toNat) ∧
    (∃ r ∈ shop.house, 1 ≤ r.number.toNat ∧ r.number.toNat ≤ 0xFFFFFFEF ∧ (0xFFFFFFFF : Word) ≠ 0 ∧
      r.number &&& 0xFFFFFFFF = (2001 : Word)) ∧
    (∀ r ∈ shop.house, r.number &&& 0xFFF00000 ≠ (0x8A100000 : Word)) ∧ shop.mirrors = [] := by decide +kernel

theorem test_witness_GetParamAnswers :
    shop.deaf .m = false ∧ 18 < (19 : Byte).toNat ∧ (11 : Byte).toNat = 11 + (0 : Fin 4).val := by decide +kernel

theorem test_witness_IdentifyAndWarmReset :
    shop.deaf .m = false ∧ (shopRun .active 0 0 0 []).job 2 ≠ none ∧ (∀ st : Station, shop.job st = none) ∧
    (∀ st : Station, shop.sessions[st] = none) ∧ shop.referrals = [] ∧ shop.captureQueue = [] := by decide +kernel

theorem test_witness_TeardownEndsTheWork :
    shop.deaf .m = false ∧ shop.job 2 = none ∧ (shopRun .active 0 0 0 []).job 2 = some (runOf .active .house 2001 0 0 0) ∧
    shop.sessions[2] = none ∧ (withSession shop (sessionOf .opened []) []).sessions[2] = some (sessionOf .opened []) := by decide +kernel

theorem test_witness_TimebaseAndSilence :
    (let r := { stationIn .enabled none with silence := some 0 };
      ({ shop with stations := shop.stations.set 2 r }).stations[2] = r ∧ r.silence = some 0 ∧ r.state ≠ .held ∧
        r.presence = .present ∧ shop.job 2 = none ∧ (shopRun .active 0 0 0 []).job 2 ≠ none ∧
        ({ r with presence := .silent }).presence = .silent) ∧
    shop.stations[2].silence ≠ some 0 := by decide +kernel

theorem test_witness_StepsKeepTheLaws :
    State.reset.LogLaw ∧ (∃ t, step State.reset = .next t) ∧
    (∃ t, step { State.reset with pending := [.timebaseTick] } = .next t) := ⟨⟨by decide, by decide⟩, ⟨_, rfl⟩, ⟨_, rfl⟩⟩

end Sys2Proof.Tests
end

/-! PROOF. ACCT_DELETE (R20): one rule for each branch of what the account table does with it, and the statement assembled from them. -/

namespace Sys2Proof.Machine

/-! ### The ranges of R1 exclude one another -/

theorem isNoNumber_of_card {n : Word} (card : isCardNumber n = true) : isNoNumber n = false := by
  rw [isCardNumber_iff] at card
  rw [← Bool.not_eq_true, isNoNumber_iff]
  omega

theorem isNoNumber_of_ordinary {n : Word} (ordinary : isOrdinary n = true) : isNoNumber n = false := by
  rw [isOrdinary_iff] at ordinary
  rw [← Bool.not_eq_true, isNoNumber_iff]
  omega

theorem isCardNumber_of_ordinary {n : Word} (ordinary : isOrdinary n = true) : isCardNumber n = false := by
  rw [isOrdinary_iff] at ordinary
  rw [← Bool.not_eq_true, isCardNumber_iff]
  omega

theorem State.isOrdinary_of_isRemote {s : State} {n : Word} (remote : s.isRemote n = true) : isOrdinary n = true := by
  simp only [State.isRemote, routeMatches, Bool.and_eq_true] at remote
  exact remote.1.1

/-! ### What the account table takes of an ACCT_DELETE (R20) -/

/-- Check 1 of R20. -/
theorem takeAcctDelete_noNumber {n : Word} (s : State) (nothing : isNoNumber n = true) :
    takeAcctDelete n s = (s, ⟨.badValue, []⟩) := by
  unfold takeAcctDelete
  exact if_pos nothing

/-- Check 2 of R20, on a card slot number. -/
theorem takeAcctDelete_card {n : Word} (s : State) (card : isCardNumber n = true) :
    takeAcctDelete n s = (s, ⟨.notLocal, []⟩) := by
  unfold takeAcctDelete
  simp only [isNoNumber_of_card card, card, Bool.false_eq_true, true_or, if_true, if_false]
  rfl

/-- Check 2 of R20, on a number that the remote route matches. -/
theorem takeAcctDelete_remote {n : Word} {s : State} (remote : s.isRemote n = true) :
    takeAcctDelete n s = (s, ⟨.notLocal, []⟩) := by
  unfold takeAcctDelete
  simp only [isNoNumber_of_ordinary (State.isOrdinary_of_isRemote remote), remote, Bool.false_eq_true, or_true, if_true, if_false]
  rfl

section Local
variable {s : State} {n : Word} (ordinary : isOrdinary n = true) (here : s.isRemote n = false)
include ordinary here

/-- Check 3 of R20. -/
theorem takeAcctDelete_notFound (missing : s.houseRecord n = none) : takeAcctDelete n s = (s, ⟨.notFound, []⟩) := by
  unfold takeAcctDelete
  simp only [isNoNumber_of_ordinary ordinary, isCardNumber_of_ordinary ordinary, here, missing, Bool.false_eq_true, or_self, if_false]
  rfl

variable {r : HouseRecord} (found : s.houseRecord n = some r)
include found

/-- A record that passes checks 1 to 3 of R20 goes on to checks 4 and 5. -/
theorem takeAcctDelete_found :
    takeAcctDelete n s =
      if r.credit.runList.isEmpty = false then (s, ⟨.busy, []⟩)
      else if r.credit.balance ≠ 0 then (s, ⟨.balance, []⟩)
      else (s.removeHouse n, ⟨.ok, []⟩) := by
  unfold takeAcctDelete
  simp only [isNoNumber_of_ordinary ordinary, isCardNumber_of_ordinary ordinary, here, found, Bool.false_eq_true, or_self, if_false]
  rfl

/-- Check 4 of R20. -/
theorem takeAcctDelete_busy (runs : r.credit.runList ≠ []) : takeAcctDelete n s = (s, ⟨.busy, []⟩) := by
  rw [takeAcctDelete_found ordinary here found, if_pos (List.isEmpty_eq_false_iff.2 runs)]

/-- Check 5 of R20. -/
theorem takeAcctDelete_balance (noRuns : r.credit.runList = []) (money : r.credit.balance ≠ 0) :
    takeAcctDelete n s = (s, ⟨.balance, []⟩) := by
  rw [takeAcctDelete_found ordinary here found, if_neg (by simp [noRuns]), if_pos money]

/-- Every check of R20 passed. -/
theorem takeAcctDelete_removed (noRuns : r.credit.runList = []) (settled : r.credit.balance = 0) :
    takeAcctDelete n s = (s.removeHouse n, ⟨.ok, []⟩) := by
  rw [takeAcctDelete_found ordinary here found, if_neg (by simp [noRuns]), if_neg (not_not_intro settled)]

end Local

/-! ### The request -/

/-- An ACCT_DELETE on the M-link is answered with what the account table takes of it (R156). -/
theorem exec_acctDelete {s t : State} {n : Word} {r : Response} (heard : s.deaf .m = false)
    (took : takeAcctDelete n (s.handOn .m) = (t, r)) : exec (.acctDelete .m (.of n)) s = .next (t.respond .m r) := by
  have request : onAcctDelete .m (.of n) s = t.respond .m r := by
    rw [onAcctDelete, State.request_taken (kind := .management) heard rfl, took]
  exact congrArg Host.Outcome.next request

/-- Removing a record from the state that the port hands on filters the table as it was before the frame. -/
theorem State.handOn_removeHouse (s : State) (link : Link) (n : Word) :
    (s.handOn link).removeHouse n = { s.handOn link with house := s.house.filter (fun x => x.number != n) } := by
  rw [State.removeHouse, State.handOn_house]

/-- Settles O39: the checks of R20 in their order, one rule for each, on the state that the port hands on. -/
theorem acctDelete : Obligations.AcctDelete := by
  unfold Obligations.AcctDelete
  intro s n heard h answered
  refine ⟨fun nothing => ?noNumber, fun low high => ?card, fun low high => ⟨fun remote => ?remote, fun here => ?here⟩⟩
  case noNumber => exact exec_acctDelete heard (takeAcctDelete_noNumber h ((isNoNumber_iff n).2 nothing))
  case card => exact exec_acctDelete heard (takeAcctDelete_card h ((isCardNumber_iff n).2 ⟨low, high⟩))
  case remote => exact exec_acctDelete heard (takeAcctDelete_remote ((s.handOn_isRemote .m n).trans remote))
  case here =>
    have ordinary : isOrdinary n = true := (isOrdinary_iff n).2 ⟨low, high⟩
    have hereThen : h.isRemote n = false := (s.handOn_isRemote .m n).trans here
    have sameRecord : h.houseRecord n = s.houseRecord n := s.handOn_houseRecord .m n
    refine ⟨fun missing => ?notFound,
      fun r found => ⟨fun runs => ?busy, fun noRuns money => ?balance, fun noRuns settled => ?removed⟩⟩
    case notFound => exact exec_acctDelete heard (takeAcctDelete_notFound ordinary hereThen (sameRecord.trans missing))
    case busy => exact exec_acctDelete heard (takeAcctDelete_busy ordinary hereThen (sameRecord.trans found) runs)
    case balance =>
      exact exec_acctDelete heard (takeAcctDelete_balance ordinary hereThen (sameRecord.trans found) noRuns money)
    case removed =>
      have gone := takeAcctDelete_removed ordinary hereThen (sameRecord.trans found) noRuns settled
      rw [s.handOn_removeHouse .m n] at gone
      exact exec_acctDelete heard gone

end Sys2Proof.Machine

/-! PROOF. The sheet price (R33 to R36): one rule for each stage of the price engine, and the statement assembled from them. -/

namespace Sys2Proof.Machine

/-! ### The raw price (R34) -/

@[simp] theorem rawPrice_simplex (t : TierPrices) (k : SheetKind) : rawPrice t k .simplex = t.base[k] := by
  simp [rawPrice]

@[simp] theorem rawPrice_duplex (t : TierPrices) (k : SheetKind) :
    rawPrice t k .duplex = t.base[k] + t.base[k] * t.back / 100 := by
  simp [rawPrice]

/-- A percentage of at most 100, rounded down, is at most the whole. -/
theorem percent_le {face percent : Nat} (range : percent ≤ 100) : face * percent / 100 ≤ face :=
  Nat.div_le_of_le_mul (by rw [Nat.mul_comm 100]; exact Nat.mul_le_mul_left face range)

/-- The raw price is at most twice the face price. -/
theorem rawPrice_le_twice {t : TierPrices} (range : t.back ≤ 100) (k : SheetKind) (sides : Sides) :
    rawPrice t k sides ≤ t.base[k] + t.base[k] := by
  cases sides with
  | simplex => rw [rawPrice_simplex]; exact Nat.le_add_right _ _
  | duplex => rw [rawPrice_duplex]; exact Nat.add_le_add_left (percent_le range) _

/-! ### The discount (R35) -/

theorem Break.qualifies_iff (n : Nat) (v : Break) : v.qualifies n = true ↔ v.threshold ≠ 0 ∧ v.threshold ≤ n := by
  simp [Break.qualifies]

/-- A later break that qualifies, with a threshold at least as great, takes the place of the best so far. -/
theorem betterBreak_wins {n : Nat} {best v : Break} (qualifies : v.qualifies n = true) (atLeast : best.threshold ≤ v.threshold) :
    betterBreak n best v = v := by
  simp [betterBreak, qualifies, atLeast]

/-- A later break leaves the best so far if, where it qualifies, its threshold is smaller. -/
theorem betterBreak_loses {n : Nat} {best v : Break} (smaller : v.qualifies n = true → v.threshold < best.threshold) :
    betterBreak n best v = best := by
  refine if_neg fun better => ?_
  rw [Bool.and_eq_true, decide_eq_true_iff] at better
  exact absurd (smaller better.1) (Nat.not_lt.2 better.2)

/-- The best break stays the best past breaks that qualify only with smaller thresholds. -/
theorem foldl_betterBreak_loses {n : Nat} {best : Break} {later : List Break}
    (smaller : ∀ v ∈ later, v.qualifies n = true → v.threshold < best.threshold) : later.foldl (betterBreak n) best = best := by
  induction later with
  | nil => rfl
  | cons v rest ih =>
    rw [List.foldl_cons, betterBreak_loses (smaller v List.mem_cons_self)]
    exact ih fun x hx => smaller x (List.mem_cons_of_mem v hx)

/-- A bound on the thresholds of the best break and of the later breaks that qualify bounds the threshold of the break chosen. -/
theorem foldl_betterBreak_threshold_le {n bound : Nat} {best : Break} {later : List Break} (first : best.threshold ≤ bound)
    (others : ∀ v ∈ later, v.qualifies n = true → v.threshold ≤ bound) :
    (later.foldl (betterBreak n) best).threshold ≤ bound := by
  induction later generalizing best with
  | nil => exact first
  | cons v rest ih =>
    refine ih ?_ fun x hx => others x (List.mem_cons_of_mem v hx)
    unfold betterBreak
    split
    case isTrue better =>
      rw [Bool.and_eq_true] at better
      exact others v List.mem_cons_self better.1
    case isFalse => exact first

/-- A qualifying break is chosen where no qualifying break before it has a greater threshold, and every one after it a smaller one. -/
theorem foldl_betterBreak_chosen {n : Nat} {v : Break} {before after : List Break} (qualifies : v.qualifies n = true)
    (earlier : ∀ x ∈ before, x.qualifies n = true → x.threshold ≤ v.threshold)
    (later : ∀ x ∈ after, x.qualifies n = true → x.threshold < v.threshold) :
    (before ++ v :: after).foldl (betterBreak n) Break.unused = v := by
  have reached : (before.foldl (betterBreak n) Break.unused).threshold ≤ v.threshold :=
    foldl_betterBreak_threshold_le (Nat.zero_le _) earlier
  rw [List.foldl_append, List.foldl_cons, betterBreak_wins qualifies reached, foldl_betterBreak_loses later]

/-- The breaks of a tier around one of them. -/
theorem TierPrices.breaks_around (t : TierPrices) (i : Fin 4) :
    t.breaks.toList = t.breaks.toList.take i ++ t.breaks[i] :: t.breaks.toList.drop (i + 1) := by
  have inside : i.val < t.breaks.toList.length := by simp
  calc t.breaks.toList
      = t.breaks.toList.take i ++ t.breaks.toList.drop i := (List.take_append_drop _ _).symm
    _ = _ := by rw [List.drop_eq_getElem_cons inside]; simp

/-- The qualifying break with the greatest threshold, on a tie the one with the highest number, gives the discount. -/
theorem discountFor_chosen {t : TierPrices} {n : Nat} {i : Fin 4} (qualifies : t.breaks[i].qualifies n = true)
    (greatest : ∀ j : Fin 4, t.breaks[j].qualifies n = true →
      t.breaks[j].threshold < t.breaks[i].threshold ∨ (t.breaks[j].threshold = t.breaks[i].threshold ∧ j ≤ i)) :
    discountFor t n = t.breaks[i].discount := by
  unfold discountFor
  rw [t.breaks_around i, foldl_betterBreak_chosen qualifies]
  case earlier =>
    intro x hx hq
    obtain ⟨j, hj, rfl⟩ := List.mem_take_iff_getElem.1 hx
    have bound : j < 4 := by simp at hj; omega
    rcases greatest ⟨j, bound⟩ hq with smaller | ⟨tie, _⟩
    · exact Nat.le_of_lt smaller
    · exact Nat.le_of_eq tie
  case later =>
    intro x hx hq
    obtain ⟨j, hj, rfl⟩ := List.mem_drop_iff_getElem.1 hx
    have bound : i.val + 1 + j < 4 := by simp at hj; omega
    rcases greatest ⟨i.val + 1 + j, bound⟩ hq with smaller | ⟨_, notAfter⟩
    · exact smaller
    · exact absurd (Fin.le_def.1 notAfter) (by simp; omega)

/-- Where no break qualifies the discount is 0. -/
theorem discountFor_none {t : TierPrices} {n : Nat} (nothing : ∀ i : Fin 4, ¬ t.breaks[i].qualifies n = true) :
    discountFor t n = 0 := by
  unfold discountFor
  have unbeaten : t.breaks.toList.foldl (betterBreak n) Break.unused = Break.unused := by
    refine foldl_betterBreak_loses fun v hv hq => ?_
    obtain ⟨i, hi, rfl⟩ := List.mem_iff_getElem.1 hv
    exact absurd hq (nothing ⟨i, by simpa using hi⟩)
  rw [unbeaten]
  rfl

/-! ### Rounding (R36) -/

@[simp] theorem discounted_zero (raw : Nat) : discounted raw 0 = raw := by
  unfold discounted
  omega

@[simp] theorem discounted_whole (raw : Nat) : discounted raw 1000 = 0 := by
  unfold discounted
  omega

/-- The product of R36 is at most that of no discount. -/
theorem discount_product_le (raw d : Nat) : raw * (1000 - d) + 500 ≤ raw * 1000 + 500 :=
  Nat.add_le_add_right (Nat.mul_le_mul_left raw (Nat.sub_le 1000 d)) 500

theorem discounted_le (raw d : Nat) : discounted raw d ≤ raw :=
  calc discounted raw d ≤ discounted raw 0 := Nat.div_le_div_right (discount_product_le raw d)
    _ = raw := discounted_zero raw

theorem sheetPrice_noDiscount {t : TierPrices} {n : Nat} (k : SheetKind) (sides : Sides) (noDiscount : discountFor t n = 0) :
    sheetPrice t k sides n = rawPrice t k sides := by
  rw [sheetPrice, noDiscount, discounted_zero]

theorem sheetPrice_wholeDiscount {t : TierPrices} {n : Nat} (k : SheetKind) (sides : Sides) (whole : discountFor t n = 1000) :
    sheetPrice t k sides n = 0 := by
  rw [sheetPrice, whole, discounted_whole]

theorem sheetPrice_le_rawPrice (t : TierPrices) (k : SheetKind) (sides : Sides) (n : Nat) :
    sheetPrice t k sides n ≤ rawPrice t k sides :=
  discounted_le _ _

/-! ### The ordinal (R33) -/

theorem Job.net_kindMode (j : Job) (k : SheetKind) : j.net (kindMode k) = if 8 ≤ k.val then j.netColour else j.netMono := by
  unfold kindMode
  split <;> rfl

/-! ### The statement -/

/-- Settles O16: the four stages of the price engine, one rule for each. -/
theorem Pricing.sheetPrice : Obligations.SheetPrice := by
  unfold Obligations.SheetPrice
  refine ⟨fun t k => ⟨rawPrice_simplex t k, rawPrice_duplex t k, fun range face sides => ?raw, percent_le,
      fun whole => ?whole, fun noBack => ?noBack, fun face back => ?worked⟩,
    fun t n => ⟨fun i qualifies greatest => ?chosen, fun nothing => ?noBreak⟩,
    fun t k sides n => ⟨rfl, sheetPrice_noDiscount k sides, sheetPrice_wholeDiscount k sides,
      fun range => ⟨(sheetPrice_le_rawPrice t k sides n).trans range, ?product⟩⟩,
    fun s j k sides => ?ordinal⟩
  case raw =>
    have := rawPrice_le_twice range k sides
    omega
  case whole => rw [rawPrice_duplex, whole, Nat.mul_div_cancel _ (by decide)]
  case noBack => rw [rawPrice_duplex, rawPrice_simplex, noBack, Nat.mul_zero, Nat.zero_div, Nat.add_zero]
  case worked => rw [rawPrice_duplex, face, back]
  case chosen =>
    simp only [← Break.qualifies_iff] at qualifies greatest
    exact discountFor_chosen qualifies greatest
  case noBreak =>
    simp only [← Break.qualifies_iff] at nothing
    exact discountFor_none nothing
  case product =>
    have := discount_product_le (rawPrice t k sides) (discountFor t n)
    omega
  case ordinal => rw [State.priceFor, Job.net_kindMode]

end Sys2Proof.Machine

/-! PROOF. PRICE_READ and PRICE_SWAP (R29 to R31): one rule for each branch of what the price banks block does with them, and the
statement assembled from them. -/

namespace Sys2Proof.Machine

/-! ### The bank that a request names (section 9.4) -/

theorem readBank_some {x : Byte} {name : BankName} (h : x.toNat = name.code) : readBank x = some name := by
  cases name with
  | a => rw [show x = 1 from BitVec.eq_of_toNat_eq h]; rfl
  | b => rw [show x = 2 from BitVec.eq_of_toNat_eq h]; rfl

theorem readBank_none {x : Byte} (notA : x.toNat ≠ 1) (notB : x.toNat ≠ 2) : readBank x = none := by
  unfold readBank
  rw [if_neg fun h => notA (by rw [h]; rfl), if_neg fun h => notB (by rw [h]; rfl)]

/-! ### The banks after a frame has been handed on (R156) -/

@[simp] theorem State.handOn_bank (s : State) (link : Link) (name : BankName) : (s.handOn link).bank name = s.bank name := by
  cases name with
  | a => exact s.handOn_bankA link
  | b => exact s.handOn_bankB link

theorem State.handOn_roleCode (s : State) (link : Link) (name : BankName) : (s.handOn link).roleCode name = s.roleCode name := by
  unfold State.roleCode
  rw [State.handOn_active]

theorem State.handOn_priceBody (s : State) (link : Link) (name : BankName) (tier : Tier) :
    (s.handOn link).priceBody name tier = s.priceBody name tier := by
  unfold State.priceBody
  rw [State.handOn_roleCode, State.handOn_bank, State.handOn_genCounter]

/-! ### PRICE_READ (R29) -/

/-- The role code is that of NONE, ACTIVE or SHADOW. -/
theorem State.roleCode_eq (s : State) (name : BankName) :
    s.roleCode name = if s.active = none then 0 else if s.active = some name then 1 else 2 := by
  unfold State.roleCode
  cases s.active with
  | none => rfl
  | some active => simp

theorem takePriceRead_badBank {f : PriceReadFields} (s : State) (unnamed : readBank f.bank = none) :
    takePriceRead f s = (s, ⟨.badValue, []⟩) := by
  unfold takePriceRead
  rw [unnamed]
  rfl

theorem takePriceRead_badTier {f : PriceReadFields} (s : State) (untiered : readTier f.tier = none) :
    takePriceRead f s = (s, ⟨.badValue, []⟩) := by
  unfold takePriceRead
  rw [untiered]
  cases readBank f.bank <;> rfl

theorem takePriceRead_answer {f : PriceReadFields} {name : BankName} {tier : Tier} (s : State) (bank : readBank f.bank = some name)
    (inTier : readTier f.tier = some tier) : takePriceRead f s = (s, ⟨.ok, s.priceBody name tier⟩) := by
  unfold takePriceRead
  rw [bank, inTier]
  rfl

/-- A PRICE_READ on the M-link is answered with what the price banks block takes of it (R156). -/
theorem exec_priceRead {s t : State} {f : PriceReadFields} {r : Response} (heard : s.deaf .m = false)
    (took : takePriceRead f (s.handOn .m) = (t, r)) : exec (.priceRead .m (.of f)) s = .next (t.respond .m r) := by
  have request : onPriceRead .m (.of f) s = t.respond .m r := by
    rw [onPriceRead, State.request_taken (kind := .management) heard rfl, took]
  exact congrArg Host.Outcome.next request

/-! ### PRICE_SWAP (R30, R31) -/

/-- Check 1 of R30. -/
theorem takePriceSwap_badBank {x : Byte} (s : State) (unnamed : readBank x = none) :
    takePriceSwap x s = (s, ⟨.badValue, []⟩) := by
  unfold takePriceSwap
  rw [unnamed]
  rfl

section Named
variable {x : Byte} {name : BankName} {s : State} (bank : readBank x = some name)
include bank

/-- A bank that is named goes on to checks 2 and 3 of R30. -/
theorem takePriceSwap_named :
    takePriceSwap x s =
      if s.active = some name then (s, ⟨.sameBank, []⟩)
      else if s.admits = false then (s, ⟨.logFull, []⟩)
      else (s.swapTo name, ⟨.ok, be1 name.code ++ be2 (step16 s.genCounter) ++ be2 s.logNext⟩) := by
  unfold takePriceSwap
  rw [bank]
  rfl

/-- Check 2 of R30. -/
theorem takePriceSwap_sameBank (same : s.active = some name) : takePriceSwap x s = (s, ⟨.sameBank, []⟩) := by
  rw [takePriceSwap_named bank, if_pos same]

/-- Check 3 of R30. -/
theorem takePriceSwap_logFull (other : s.active ≠ some name) (full : s.admits = false) :
    takePriceSwap x s = (s, ⟨.logFull, []⟩) := by
  rw [takePriceSwap_named bank, if_neg other, if_pos full]

/-- Every check of R30 passed. -/
theorem takePriceSwap_swapped (other : s.active ≠ some name) (room : s.admits = true) :
    takePriceSwap x s = (s.swapTo name, ⟨.ok, be1 name.code ++ be2 (step16 s.genCounter) ++ be2 s.logNext⟩) := by
  rw [takePriceSwap_named bank, if_neg other, if_neg (by simp [room])]

end Named

/-- A PRICE_SWAP on the M-link is answered with what the price banks block takes of it (R156). -/
theorem exec_priceSwap {s t : State} {x : Byte} {r : Response} (heard : s.deaf .m = false)
    (took : takePriceSwap x (s.handOn .m) = (t, r)) : exec (.priceSwap .m (.of x)) s = .next (t.respond .m r) := by
  have request : onPriceSwap .m (.of x) s = t.respond .m r := by
    rw [onPriceSwap, State.request_taken (kind := .management) heard rfl, took]
  exact congrArg Host.Outcome.next request

/-- The four changes of a swap (R31), and nothing else. -/
theorem State.swapTo_eq (s : State) (name : BankName) :
    s.swapTo name =
      { s with
        genCounter := step16 s.genCounter
        bankA := if name = .a then { s.bankA with generation := step16 s.genCounter } else s.bankA
        bankB := if name = .b then { s.bankB with generation := step16 s.genCounter } else s.bankB
        active := some name
        log := s.log ++ [{ seq := s.logNext, entry := .swap name (step16 s.genCounter) }]
        logNext := step16 s.logNext } := by
  cases name <;> rfl

/-- A swap in the state that the port hands on works on the counters, banks and log as they were before the frame. -/
theorem State.handOn_swapTo (s : State) (link : Link) (name : BankName) :
    (s.handOn link).swapTo name =
      { s.handOn link with
        genCounter := step16 s.genCounter
        bankA := if name = .a then { s.bankA with generation := step16 s.genCounter } else s.bankA
        bankB := if name = .b then { s.bankB with generation := step16 s.genCounter } else s.bankB
        active := some name
        log := s.log ++ [{ seq := s.logNext, entry := .swap name (step16 s.genCounter) }]
        logNext := step16 s.logNext } := by
  rw [State.swapTo_eq, State.handOn_genCounter, State.handOn_bankA, State.handOn_bankB, State.handOn_log, State.handOn_logNext]

/-! ### The statement -/

/-- Settles O41: the answer of R29, and the checks of R30 in their order with the swap of R31, on the state that the port hands on. -/
theorem priceReadAndSwap : Obligations.PriceReadAndSwap := by
  unfold Obligations.PriceReadAndSwap
  refine ⟨fun s f heard => ⟨fun bad => ?badRead, fun name tier bank inTier => ?read⟩,
    fun s x heard => ⟨fun notA notB => ?badSwap,
      fun name bank => ⟨fun same => ?sameBank, fun other full => ?logFull, fun other room => ?swapped⟩⟩⟩
  case badRead =>
    rcases bad with ⟨notA, notB⟩ | above
    · exact exec_priceRead heard (takePriceRead_badBank _ (readBank_none notA notB))
    · exact exec_priceRead heard (takePriceRead_badTier _ (readTier_none above))
  case read =>
    have took := takePriceRead_answer (s.handOn .m) (readBank_some bank) (readTier_some inTier)
    rw [State.handOn_priceBody, State.priceBody, State.roleCode_eq] at took
    exact exec_priceRead heard took
  case badSwap => exact exec_priceSwap heard (takePriceSwap_badBank _ (readBank_none notA notB))
  case sameBank => exact exec_priceSwap heard (takePriceSwap_sameBank (readBank_some bank) ((s.handOn_active .m).trans same))
  case logFull =>
    have noRoom : (s.handOn .m).admits = false := (s.handOn_admits .m).trans (s.admits_not.2 full)
    exact exec_priceSwap heard (takePriceSwap_logFull (readBank_some bank) (by rwa [State.handOn_active]) noRoom)
  case swapped =>
    have admitted : (s.handOn .m).admits = true := (s.handOn_admits .m).trans (s.admits_iff.2 room)
    have took := takePriceSwap_swapped (readBank_some bank) (by rwa [State.handOn_active]) admitted
    rw [State.handOn_swapTo, State.handOn_genCounter, State.handOn_logNext] at took
    exact exec_priceSwap heard took

end Sys2Proof.Machine

/-! PROOF. END_SESSION and POLL (R102, R107): one rule for each branch of what the card session unit does with them, and the two statements
assembled from them. -/

namespace Sys2Proof.Machine

/-! ### The answer of END_SESSION (R102) -/

theorem State.sessionsAhead_eq (s : State) (st : Station) :
    s.sessionsAhead st = if st ∈ s.closingWait then s.closingWait.idxOf st else 0 := by
  unfold State.sessionsAhead
  simp only [List.contains_iff_mem]

/-- The OK answer of END_SESSION carries what the station's session holds at that moment. -/
theorem State.endSessionAnswer_eq {s : State} {st : Station} {y : Session} (session : s.sessions[st] = some y) :
    s.endSessionAnswer st =
      ⟨.ok, be1 y.state.code ++ be4 y.spent ++ be1 y.auths.length ++ y.auths.flatMap (fun a => be4 (a.capture.getD 0)) ++
        be1 (if st ∈ s.closingWait then s.closingWait.idxOf st else 0)⟩ := by
  unfold State.endSessionAnswer State.sessionCode
  rw [session, State.sessionsAhead_eq]
  rfl

/-! ### What the card session unit takes of an END_SESSION (R102) -/

section EndSession
variable {s : State} {st : Station}

theorem State.endSession_noSession (missing : s.sessions[st] = none) : s.endSession st = (s, ⟨.noSession, []⟩) := by
  unfold State.endSession
  rw [missing]
  rfl

variable {x : Session} (session : s.sessions[st] = some x)
include session

/-- A session that is not NONE is taken by its own state and its run's. -/
theorem State.endSession_some :
    s.endSession st =
      if x.state ≠ .opened then (s, s.endSessionAnswer st)
      else if s.runIdle st = false then (s, ⟨.busy, []⟩)
      else (s.leaveOpen st x, (s.leaveOpen st x).endSessionAnswer st) := by
  unfold State.endSession
  rw [session]
  rfl

/-- A session that has left OPEN stays as it is. -/
theorem State.endSession_stays (left : x.state ≠ .opened) : s.endSession st = (s, s.endSessionAnswer st) := by
  rw [State.endSession_some session, if_pos left]

theorem State.endSession_busy (opened : x.state = .opened) (running : s.runIdle st = false) :
    s.endSession st = (s, ⟨.busy, []⟩) := by
  rw [State.endSession_some session, if_neg (not_not_intro opened), if_pos running]

theorem State.endSession_leaves (opened : x.state = .opened) (idle : s.runIdle st = true) :
    s.endSession st = (s.leaveOpen st x, (s.leaveOpen st x).endSessionAnswer st) := by
  rw [State.endSession_some session, if_neg (not_not_intro opened), if_neg (by simp [idle])]

end EndSession

/-- An END_SESSION on the C-link of a station that is ENABLED or DRAINING is answered with what the card session unit takes of it
(R156, R160). -/
theorem exec_endSession {s t : State} {st : Station} {r : Response} (heard : s.deaf (.c st) = false) (served : s.serves st)
    (took : (s.handOn (.c st)).endSession st = (t, r)) :
    exec (.endSession (.c st) (.of ())) s = .next (t.respond (.c st) r) := by
  have passed : takeEndSession st () (s.handOn (.c st)) = (t, r) := (State.gate_pass (State.handOn_serves _ served)).trans took
  have request : onEndSession (.c st) (.of ()) s = t.respond (.c st) r := by
    rw [onEndSession, State.request_taken (kind := .station) heard rfl, stationOf, passed]
  exact congrArg Host.Outcome.next request

/-- Settles O31: the branches of R102 by the session's state and the run's, on the state that the port hands on. -/
theorem endSessionByState : Obligations.EndSessionByState := by
  unfold Obligations.EndSessionByState
  intro s st heard served h answer
  have sameSession : h.sessions[st] = s.sessions[st] := by rw [State.handOn_sessions]
  refine ⟨fun missing => ?noSession, fun x session =>
    ⟨fun left => ?stays, fun opened running => ?busy, fun opened idle y after => ?leaves⟩⟩
  case noSession => exact exec_endSession heard served (State.endSession_noSession (sameSession.trans missing))
  case stays =>
    have took := State.endSession_stays (sameSession.trans session) left
    rw [State.endSessionAnswer_eq (sameSession.trans session), State.handOn_closingWait] at took
    exact exec_endSession heard served took
  case busy =>
    have notIdle : h.runIdle st = false :=
      (s.handOn_runIdle _ st).trans (Option.isNone_eq_false_iff.2 (Option.isSome_iff_ne_none.2 running))
    exact exec_endSession heard served (State.endSession_busy (sameSession.trans session) opened notIdle)
  case leaves =>
    have nowIdle : h.runIdle st = true := (s.handOn_runIdle _ st).trans (Option.isNone_iff_eq_none.2 idle)
    have took := State.endSession_leaves (sameSession.trans session) opened nowIdle
    rw [State.endSessionAnswer_eq after] at took
    exact exec_endSession heard served took

/-! ### POLL (R107) -/

theorem takePoll_none {s : State} (empty : s.captureQueue = []) : takePoll () s = (s, ⟨.none, []⟩) := by
  unfold takePoll
  rw [empty]
  rfl

theorem takePoll_head {s : State} {head : Order} {rest : List Order} (queue : s.captureQueue = head :: rest) :
    takePoll () s = (s, ⟨.ok, head.bytes ++ be1 (rest.length + 1)⟩) := by
  unfold takePoll
  rw [queue]
  rfl

/-- A POLL on the P-link is answered with what the card session unit takes of it (R156). -/
theorem exec_poll {s t : State} {r : Response} (heard : s.deaf .p = false) (took : takePoll () (s.handOn .p) = (t, r)) :
    exec (.poll .p (.of ())) s = .next (t.respond .p r) := by
  have request : onPoll .p (.of ()) s = t.respond .p r := by
    rw [onPoll, State.request_taken (kind := .payment) heard rfl, took]
  exact congrArg Host.Outcome.next request

/-- Settles O32: the two answers of R107, by whether the queue that the port hands on holds an order. -/
theorem pollAnswers : Obligations.PollAnswers := by
  unfold Obligations.PollAnswers
  intro s heard
  have sameQueue : (s.handOn .p).captureQueue = s.captureQueue := s.handOn_captureQueue .p
  refine ⟨fun empty => ?none, fun head rest queue => ?head⟩
  case none => exact exec_poll heard (takePoll_none (sameQueue.trans empty))
  case head => exact exec_poll heard (takePoll_head (sameQueue.trans queue))

end Sys2Proof.Machine

/-! PROOF. REFERRAL_LIST (R124): what the referral queue block takes of it, the image of a referral with its codes, and the statement
assembled from them and from the queue's law (R119). -/

namespace Sys2Proof.Machine

/-- The answer counts the queue and carries every referral's image in its order; the state stays as it is (R124). -/
theorem takeReferralList_answer (s : State) :
    takeReferralList () s = (s, ⟨.ok, be1 s.referrals.length ++ s.referrals.flatMap Referral.bytes⟩) := rfl

/-- The items of the referral image, with the codes of section 9.4 for its kind and state. -/
theorem Referral.bytes_eq (r : Referral) :
    r.bytes =
      be1 r.id ++ be1 (match r.kind with | .opening => 1 | .topup => 2) ++ be1 r.station.val ++ be4 r.account.toNat ++
        be4 r.requested ++ be1 (match r.state with | .waiting => 1 | .fetched => 2) ++ be1 r.timeout := by
  unfold Referral.bytes
  cases r.kind <;> cases r.state <;> rfl

/-- A REFERRAL_LIST on the M-link is answered with what the referral queue block takes of it (R156). -/
theorem exec_referralList {s t : State} {r : Response} (heard : s.deaf .m = false)
    (took : takeReferralList () (s.handOn .m) = (t, r)) : exec (.referralList .m (.of ())) s = .next (t.respond .m r) := by
  have request : onReferralList .m (.of ()) s = t.respond .m r := by
    rw [onReferralList, State.request_taken (kind := .management) heard rfl, took]
  exact congrArg Host.Outcome.next request

/-- Settles O44: the answer lists the queue as it was before the frame, each referral by its image; the bound is one referral per station
(R119). -/
theorem referralListAnswers : Obligations.ReferralListAnswers := by
  unfold Obligations.ReferralListAnswers
  refine ⟨fun s heard => ?answer, fun s law => ?atMostEight⟩
  case answer =>
    have took := takeReferralList_answer (s.handOn .m)
    rw [State.handOn_referrals, funext Referral.bytes_eq] at took
    exact exec_referralList heard took
  case atMostEight => exact ReferralLaw_length law.referrals

end Sys2Proof.Machine

/-! PROOF. METER_READ (R147): one rule for each of the two answers that the settlement log block gives it, and the statement assembled from
them. -/

namespace Sys2Proof.Machine

/-- The twenty meters behind a first item, in the order of R145 with nothing left to regroup. -/
theorem Meters.append_bytes (station : List Byte) (m : Meters) :
    station ++ m.bytes =
      station ++ m.kinds.toList.flatMap be4 ++ be4 m.duplex ++ be4 m.jam ++ be4 m.credited ++ be4 m.disputed := by
  unfold Meters.bytes
  simp only [List.append_assoc]

/-- A station above 7 is refused, and the state stays as it is. -/
theorem takeMeterRead_badStation {x : Byte} (s : State) (above : 7 < x.toNat) : takeMeterRead x s = (s, ⟨.badValue, []⟩) := by
  unfold takeMeterRead
  rw [readStation_none above]
  rfl

/-- A station's meters are answered whatever its state, and the state stays as it is. -/
theorem takeMeterRead_answer {x : Byte} {st : Station} (s : State) (station : x.toNat = st.val) :
    takeMeterRead x s = (s, ⟨.ok, be1 st.val ++ s.meters[st].bytes⟩) := by
  unfold takeMeterRead
  rw [readStation_some station]
  rfl

/-- A METER_READ on the M-link is answered with what the settlement log block takes of it (R156). -/
theorem exec_meterRead {s t : State} {x : Byte} {r : Response} (heard : s.deaf .m = false)
    (took : takeMeterRead x (s.handOn .m) = (t, r)) : exec (.meterRead .m (.of x)) s = .next (t.respond .m r) := by
  have request : onMeterRead .m (.of x) s = t.respond .m r := by
    rw [onMeterRead, State.request_taken (kind := .management) heard rfl, took]
  exact congrArg Host.Outcome.next request

/-- Settles O47: the two answers of R147, with the meters as they stood before the frame. -/
theorem meterReadAnswers : Obligations.MeterReadAnswers := by
  unfold Obligations.MeterReadAnswers
  intro s x heard answered
  refine ⟨fun above => ?badStation, fun st station => ?meters⟩
  case badStation => exact exec_meterRead heard (takeMeterRead_badStation _ above)
  case meters =>
    have took := takeMeterRead_answer (s.handOn .m) station
    rw [State.handOn_meters, Meters.append_bytes] at took
    exact exec_meterRead heard took

end Sys2Proof.Machine

/-! PROOF. ATTN_EXCHANGE and the lines ATTN and SRQ (R169 to R171): the live set bit by bit, what a line follows, and the statement
assembled from them. -/

namespace Sys2Proof.Machine

/-! ### The live set (R169) -/

/-- A condition's bit is its place in the live set where what the condition says holds. -/
theorem State.liveBit_eq {s : State} {c : Condition} {P : Prop} [Decidable P] (present : s.isLive c = true ↔ P) :
    s.liveBit c = if P then 1#32 <<< c.bit else 0 := by
  unfold State.liveBit
  exact if_congr present rfl rfl

theorem State.isLive_referralPending (s : State) :
    s.isLive .referralPending = true ↔ ∃ r ∈ s.referrals, r.state = .waiting := by
  simp [State.isLive]

theorem State.isLive_captureQueueNonempty (s : State) : s.isLive .captureQueueNonempty = true ↔ s.captureQueue ≠ [] := by
  simp [State.isLive]

/-- The six live conditions at their bits: the four marks of the log (R144), a WAITING referral, and an order in the capture queue. -/
theorem State.liveSet_eq (s : State) :
    s.liveSet =
      (if 1 ≤ s.log.length then 0x00001000#32 else 0) ||| (if 64 ≤ s.log.length then 0x00002000#32 else 0) |||
        (if 128 ≤ s.log.length then 0x00004000#32 else 0) ||| (if 192 ≤ s.log.length then 0x00008000#32 else 0) |||
        (if ∃ r ∈ s.referrals, r.state = .waiting then 0x00010000#32 else 0) |||
        (if s.captureQueue ≠ [] then 0x00020000#32 else 0) := by
  unfold State.liveSet
  rw [State.liveBit_eq (c := .logNonempty) decide_eq_true_iff, State.liveBit_eq (c := .logQ1) decide_eq_true_iff,
    State.liveBit_eq (c := .logQ2) decide_eq_true_iff, State.liveBit_eq (c := .logQ3) decide_eq_true_iff,
    State.liveBit_eq s.isLive_referralPending, State.liveBit_eq s.isLive_captureQueueNonempty]
  rfl

theorem State.handOn_liveSet (s : State) (link : Link) : (s.handOn link).liveSet = s.liveSet := by
  rw [State.liveSet_eq, State.liveSet_eq, State.handOn_log, State.handOn_referrals, State.handOn_captureQueue]

/-! ### The lines (R171) -/

/-- Two sets meet exactly where some bit is in both. -/
theorem and_ne_zero_iff_common_bit (x mask : Word) :
    x &&& mask ≠ 0#32 ↔ ∃ i < 32, x.getLsbD i = true ∧ mask.getLsbD i = true := by
  rw [Ne, BitVec.eq_of_getLsbD_eq_iff]
  simp only [BitVec.getLsbD_and, BitVec.getLsbD_zero, not_forall, exists_prop, Bool.not_eq_false, Bool.and_eq_true]

/-- A line is asserted exactly while its mask selects a member of the latched set or the live set. -/
theorem State.lineAsserted_iff (s : State) (mask : Word) :
    s.lineAsserted mask = true ↔ ∃ i < 32, (s.latched ||| s.liveSet).getLsbD i = true ∧ mask.getLsbD i = true := by
  rw [State.lineAsserted, bne_iff_ne]
  exact and_ne_zero_iff_common_bit _ mask

/-! ### ATTN_EXCHANGE (R170) -/

/-- The M-link's port latches no event when it hands a frame on. -/
theorem State.handOn_m_latched (s : State) : (s.handOn .m).latched = s.latched := rfl

/-- The answer carries both sets as they stood before the events of the mask are cleared. -/
theorem takeAttnExchange_answer (mask : Word) (s : State) :
    takeAttnExchange mask s =
      ({ s with latched := s.latched &&& ~~~mask }, ⟨.ok, be4 s.latched.toNat ++ be4 s.liveSet.toNat⟩) := rfl

/-- An ATTN_EXCHANGE on the M-link is answered with what the attention unit takes of it (R156). -/
theorem exec_attnExchange {s t : State} {mask : Word} {r : Response} (heard : s.deaf .m = false)
    (took : takeAttnExchange mask (s.handOn .m) = (t, r)) : exec (.attnExchange .m (.of mask)) s = .next (t.respond .m r) := by
  have request : onAttnExchange .m (.of mask) s = t.respond .m r := by
    rw [onAttnExchange, State.request_taken (kind := .management) heard rfl, took]
  exact congrArg Host.Outcome.next request

/-- Settles O51: the live set of R169, the exchange of R170 on the state that the port hands on, and both lines by what a line follows. -/
theorem attentionAndItsLines : Obligations.AttentionAndItsLines := by
  unfold Obligations.AttentionAndItsLines
  refine ⟨fun s mask heard => ⟨s.liveSet_eq, ?exchange⟩,
    fun s => ⟨s.lineAsserted_iff s.params.attnMask, s.lineAsserted_iff s.params.srqMask⟩⟩
  case exchange =>
    have took := takeAttnExchange_answer mask (s.handOn .m)
    rw [State.handOn_liveSet, State.handOn_m_latched, State.liveSet_eq] at took
    exact exec_attnExchange heard took

end Sys2Proof.Machine

/-! PROOF. GET_PARAM and SET_PARAM (R172 to R174, R117): the parameter that a number names, the checks on a new route, one rule for each
branch of what the parameter table does with the two requests, and the two statements assembled from them. -/

namespace Sys2Proof.Machine

/-! ### The parameter that a number names (R172) -/

/-- A parameter's number in the table of R172. -/
def ParamName.number : ParamName → Nat
  | .holdStep => 1
  | .interimInterval => 2
  | .jamAllowance => 3
  | .jamTimer => 4
  | .runIdle => 5
  | .cardIdle => 6
  | .referralTimeout => 7
  | .referralOpen => 8
  | .silence => 9
  | .captureStall => 10
  | .cardMap entry => 11 + entry.val
  | .routeMask => 15
  | .routeValue => 16
  | .attnMask => 17
  | .srqMask => 18

theorem readParam_some {x : Byte} {name : ParamName} (number : x.toNat = name.number) : readParam x = some name := by
  unfold readParam
  rw [number]
  cases name with
  | cardMap entry => fin_cases entry <;> rfl
  | _ => rfl

theorem readParam_none {x : Byte} (outside : x.toNat = 0 ∨ 18 < x.toNat) : readParam x = none := by
  unfold readParam
  split
  case h_19 => rfl
  all_goals omega

/-! ### GET_PARAM (R174) -/

/-- A number outside the table is refused, and the state stays as it is. -/
theorem takeGetParam_badValue {x : Byte} (s : State) (outside : x.toNat = 0 ∨ 18 < x.toNat) :
    takeGetParam x s = (s, ⟨.badValue, []⟩) := by
  unfold takeGetParam
  rw [readParam_none outside]
  rfl

/-- A parameter's value is answered behind its number, and the state stays as it is. -/
theorem takeGetParam_answer {x : Byte} {name : ParamName} (s : State) (number : x.toNat = name.number) :
    takeGetParam x s = (s, ⟨.ok, [x] ++ be4 (s.params.get name)⟩) := by
  unfold takeGetParam
  rw [readParam_some number]
  rfl

/-- A GET_PARAM on the M-link is answered with what the parameter table takes of it (R156). -/
theorem exec_getParam {s t : State} {x : Byte} {r : Response} (heard : s.deaf .m = false)
    (took : takeGetParam x (s.handOn .m) = (t, r)) : exec (.getParam .m (.of x)) s = .next (t.respond .m r) := by
  have request : onGetParam .m (.of x) s = t.respond .m r := by
    rw [onGetParam, State.request_taken (kind := .management) heard rfl, took]
  exact congrArg Host.Outcome.next request

/-- The answer for a number of the table, with the value as it stood before the frame. -/
theorem exec_getParam_answer {s : State} {x : Byte} {name : ParamName} (heard : s.deaf .m = false)
    (number : x.toNat = name.number) :
    exec (.getParam .m (.of x)) s = .next ((s.handOn .m).respond .m ⟨.ok, [x] ++ be4 (s.params.get name)⟩) := by
  have took := takeGetParam_answer (s.handOn .m) number
  rw [State.handOn_params] at took
  exact exec_getParam heard took

/-- Settles O53: the refusal of R174, and its answer parameter by parameter in the order of the table of R172. -/
theorem getParamAnswers : Obligations.GetParamAnswers := by
  unfold Obligations.GetParamAnswers
  intro s x heard answered value n p
  have holds (name : ParamName) (number : n = name.number) : value (p.get name) := exec_getParam_answer heard number
  exact ⟨fun outside => exec_getParam heard (takeGetParam_badValue _ outside), holds .holdStep, holds .interimInterval,
    holds .jamAllowance, holds .jamTimer, holds .runIdle, holds .cardIdle, holds .referralTimeout, holds .referralOpen,
    holds .silence, holds .captureStall, fun entry => holds (.cardMap entry), holds .routeMask, holds .routeValue,
    holds .attnMask, holds .srqMask⟩

/-! ### The checks on a new route (R116, R117) -/

theorem routeMatches_iff (mask value n : Word) :
    routeMatches mask value n = true ↔ 1 ≤ n.toNat ∧ n.toNat ≤ 0xFFFFFFEF ∧ mask ≠ 0 ∧ n &&& mask = value := by
  rw [routeMatches, Bool.and_eq_true, Bool.and_eq_true, isOrdinary_iff, bne_iff_ne, beq_iff_eq, and_assoc, and_assoc]

/-- A new route does not fit exactly where it would match a house account or miss a mirror in use. -/
theorem State.routeFits_not (s : State) (p : Params) :
    s.routeFits p = false ↔
      (∃ r ∈ s.house, routeMatches p.routeMask p.routeValue r.number = true) ∨
        ∃ m ∈ s.mirrors, ¬ routeMatches p.routeMask p.routeValue m.number = true := by
  rw [State.routeFits, Bool.and_eq_false_iff, List.all_eq_false, List.all_eq_false]
  simp only [Bool.not_eq_true', Bool.not_eq_false]

theorem State.handOn_routeFits (s : State) (link : Link) (p : Params) : (s.handOn link).routeFits p = s.routeFits p := by
  rw [State.routeFits, State.routeFits, State.handOn_house, State.handOn_mirrors]

/-! ### The values stored (R173) -/

theorem clampTier_eq {tier : Tier} {v : Nat} (clamped : tier.val = min 3 v) : clampTier v = tier :=
  Fin.ext clamped.symm

theorem Params.store_cardMap {entry tier : Tier} {value : Word} (p : Params) (clamped : tier.val = min 3 value.toNat) :
    p.store (.cardMap entry) value = { p with cardMap := p.cardMap.set entry tier } := by
  rw [Params.store, clampTier_eq clamped]

/-- A card class map entry just stored holds the clamped tier. -/
theorem Params.get_store_cardMap (p : Params) (entry : Tier) (value : Word) :
    (p.store (.cardMap entry) value).get (.cardMap entry) = min 3 value.toNat := by
  simp [Params.store, Params.get, clampTier]

/-! ### What the parameter table takes of a SET_PARAM (R173, R117) -/

/-- A number outside the table. -/
theorem takeSetParam_badValue {f : SetParamFields} (s : State) (outside : f.number.toNat = 0 ∨ 18 < f.number.toNat) :
    takeSetParam f s = (s, ⟨.badValue, []⟩) := by
  unfold takeSetParam
  rw [readParam_none outside]
  rfl

section Named
variable {f : SetParamFields} {name : ParamName} {s : State} (number : f.number.toNat = name.number)
include number

/-- A route parameter whose new route fails the checks of R117. -/
theorem takeSetParam_conflict (route : name.isRoute = true) (misfit : s.routeFits (s.params.store name f.value) = false) :
    takeSetParam f s = (s, ⟨.conflict, []⟩) := by
  unfold takeSetParam
  rw [readParam_some number]
  exact if_pos ⟨route, misfit⟩

/-- A parameter that is no route parameter, or whose new route passes the checks of R117, is stored and answered. -/
theorem takeSetParam_stored (fits : name.isRoute = true → s.routeFits (s.params.store name f.value) ≠ false) :
    takeSetParam f s =
      ({ s with params := s.params.store name f.value },
        ⟨.ok, [f.number] ++ be4 ((s.params.store name f.value).get name)⟩) := by
  unfold takeSetParam
  rw [readParam_some number]
  exact if_neg fun refused => fits refused.1 refused.2

end Named

/-! ### The request -/

/-- A SET_PARAM on the M-link is answered with what the parameter table takes of it (R156). -/
theorem exec_setParam {s t : State} {f : SetParamFields} {r : Response} (heard : s.deaf .m = false)
    (took : takeSetParam f (s.handOn .m) = (t, r)) : exec (.setParam .m (.of f)) s = .next (t.respond .m r) := by
  have request : onSetParam .m (.of f) s = t.respond .m r := by
    rw [onSetParam, State.request_taken (kind := .management) heard rfl, took]
  exact congrArg Host.Outcome.next request

section Requested
variable {s : State} {f : SetParamFields} {name : ParamName} (heard : s.deaf .m = false) (number : f.number.toNat = name.number)
include heard number

/-- The refusal of R117, by the accounts and the route as they stood before the frame. -/
theorem exec_setParam_conflict (route : name.isRoute = true) (misfit : s.routeFits (s.params.store name f.value) = false) :
    exec (.setParam .m (.of f)) s = .next ((s.handOn .m).respond .m ⟨.conflict, []⟩) := by
  refine exec_setParam heard (takeSetParam_conflict number route ?_)
  rwa [State.handOn_params, State.handOn_routeFits]

/-- The value stored over the parameters as they stood before the frame. -/
theorem exec_setParam_stored (fits : name.isRoute = true → s.routeFits (s.params.store name f.value) ≠ false) :
    exec (.setParam .m (.of f)) s = .next
      (State.respond { s.handOn .m with params := s.params.store name f.value } .m
        ⟨.ok, [f.number] ++ be4 ((s.params.store name f.value).get name)⟩) := by
  have took := takeSetParam_stored (s := s.handOn .m) number (by rwa [State.handOn_params, State.handOn_routeFits])
  rw [State.handOn_params] at took
  exact exec_setParam heard took

/-- Every other parameter is stored unchecked. -/
theorem exec_setParam_clamped (other : name.isRoute = false) :
    exec (.setParam .m (.of f)) s = .next
      (State.respond { s.handOn .m with params := s.params.store name f.value } .m
        ⟨.ok, [f.number] ++ be4 ((s.params.store name f.value).get name)⟩) :=
  exec_setParam_stored heard number fun route => absurd route (Bool.eq_false_iff.1 other)

end Requested

/-- Settles O52: the refusal of another number, the clamped values in the order of the table of R172, and the two route parameters by the
checks of R117. -/
theorem setParamStores : Obligations.SetParamStores := by
  unfold Obligations.SetParamStores
  intro s f heard h n v stored refused within matches' conflict
  have clamped (name : ParamName) (other : name.isRoute = false) (number : n = name.number) :
      stored (s.params.store name f.value) ((s.params.store name f.value).get name) := exec_setParam_clamped heard number other
  have conflicts (p : Params) : s.routeFits p = false ↔ conflict p.routeMask p.routeValue := by
    rw [State.routeFits_not]
    simp only [conflict, matches', routeMatches_iff]
  have refusedRoute (name : ParamName) (route : name.isRoute = true) (number : n = name.number)
      (meets : conflict (s.params.store name f.value).routeMask (s.params.store name f.value).routeValue) : refused .conflict :=
    exec_setParam_conflict heard number route ((conflicts _).2 meets)
  have storedRoute (name : ParamName) (number : n = name.number)
      (clear : ¬ conflict (s.params.store name f.value).routeMask (s.params.store name f.value).routeValue) :
      stored (s.params.store name f.value) ((s.params.store name f.value).get name) :=
    exec_setParam_stored heard number fun _ misfit => clear ((conflicts _).1 misfit)
  refine ⟨fun outside => exec_setParam heard (takeSetParam_badValue _ outside), clamped .holdStep rfl, clamped .interimInterval rfl,
    clamped .jamAllowance rfl, clamped .jamTimer rfl, clamped .runIdle rfl, clamped .cardIdle rfl, clamped .referralTimeout rfl,
    clamped .referralOpen rfl, clamped .silence rfl, clamped .captureStall rfl, fun entry tier number range => ?cardMap,
    refusedRoute .routeMask rfl, storedRoute .routeMask, refusedRoute .routeValue rfl, storedRoute .routeValue,
    clamped .attnMask rfl, clamped .srqMask rfl⟩
  case cardMap =>
    have kept := clamped (.cardMap entry) rfl number
    rwa [Params.get_store_cardMap, Params.store_cardMap _ range] at kept

end Sys2Proof.Machine

/-! PROOF. IDENTIFY and WARM_RESET (R175, R177): the identity item by item, when work is open, what a warm reset leaves of a frame's own
traces, and the statement assembled from them. -/

namespace Sys2Proof.Machine

/-! ### IDENTIFY (R175) -/

/-- The vendor, the part and the revision of every part, then the reset cause by its code of section 9.4 and the seconds. -/
theorem State.identity_eq (s : State) :
    s.identity =
      ([0x50, 0x53, 0x08, 0x40, 0x01] : List Byte) ++
        be1 (match s.resetCause with | .powerOn => 1 | .resetPin => 2 | .warm => 3) ++ be4 s.uptime := by
  unfold State.identity
  cases s.resetCause <;> rfl

theorem State.handOn_identity (s : State) (link : Link) : (s.handOn link).identity = s.identity := by
  rw [State.identity, State.identity, State.handOn_resetCause, State.handOn_uptime]

/-- The state stays as it is. -/
theorem takeIdentify_answer (s : State) : takeIdentify () s = (s, ⟨.ok, s.identity⟩) := rfl

/-- An IDENTIFY on the M-link is answered with what the block takes of it (R156). -/
theorem exec_identify {s t : State} {r : Response} (heard : s.deaf .m = false)
    (took : takeIdentify () (s.handOn .m) = (t, r)) : exec (.identify .m (.of ())) s = .next (t.respond .m r) := by
  have request : onIdentify .m (.of ()) s = t.respond .m r := by
    rw [onIdentify, State.request_taken (kind := .management) heard rfl, took]
  exact congrArg Host.Outcome.next request

/-! ### Whether work is open (R177) -/

/-- None of the eight values is counted exactly where the test fails at every station. -/
theorem countP_stations_eq_zero {α : Type} (v : Vector α 8) (p : α → Bool) :
    v.toList.countP p = 0 ↔ ∀ st : Station, ¬ p v[st] = true := by
  simp only [List.countP_eq_zero, Vector.mem_toList_iff, Vector.forall_mem_iff_forall_getElem, Fin.forall_iff, Fin.getElem_fin]

theorem State.openRuns_ne_zero (s : State) : s.openRuns ≠ 0 ↔ ∃ st : Station, s.job st ≠ none := by
  simp only [State.openRuns, Ne, countP_stations_eq_zero, not_forall, not_not, Option.isSome_iff_ne_none, State.job]

theorem State.openSessions_ne_zero (s : State) : s.openSessions ≠ 0 ↔ ∃ st : Station, s.sessions[st] ≠ none := by
  simp only [State.openSessions, Ne, countP_stations_eq_zero, not_forall, not_not, Option.isSome_iff_ne_none]

/-- Work is open while a run is not IDLE, a session is not NONE, or one of the two queues is not empty. -/
theorem State.workOpen_iff (s : State) :
    s.workOpen = true ↔
      (∃ st : Station, s.job st ≠ none) ∨ (∃ st : Station, s.sessions[st] ≠ none) ∨ s.referrals ≠ [] ∨ s.captureQueue ≠ [] := by
  rw [← State.openRuns_ne_zero, ← State.openSessions_ne_zero]
  simp [State.workOpen, or_assoc]

theorem State.handOn_workOpen (s : State) (link : Link) : (s.handOn link).workOpen = s.workOpen := by
  rw [Bool.eq_iff_iff, State.workOpen_iff, State.workOpen_iff]
  simp only [State.handOn_job, State.handOn_sessions, State.handOn_referrals, State.handOn_captureQueue]

/-! ### WARM_RESET (R177) -/

theorem takeWarmReset_busy {s : State} (working : s.workOpen = true) : takeWarmReset () s = (s, ⟨.busy, []⟩) := by
  unfold takeWarmReset
  exact if_pos working

theorem takeWarmReset_taken {s : State} (idle : ¬ s.workOpen = true) : takeWarmReset () s = (s.warmReset, ⟨.ok, []⟩) := by
  unfold takeWarmReset
  exact if_neg idle

/-- A WARM_RESET on the M-link is answered with what the block takes of it (R156). -/
theorem exec_warmReset {s t : State} {r : Response} (heard : s.deaf .m = false)
    (took : takeWarmReset () (s.handOn .m) = (t, r)) : exec (.warmReset .m (.of ())) s = .next (t.respond .m r) := by
  have request : onWarmReset .m (.of ()) s = t.respond .m r := by
    rw [onWarmReset, State.request_taken (kind := .management) heard rfl, took]
  exact congrArg Host.Outcome.next request

/-- A warm reset keeps of the links only the responses already formed on the UART links, which a frame on the M-link leaves alone (R167). -/
theorem State.handOn_m_io_warm (s : State) : (s.handOn .m).io.warm = s.io.warm := rfl

/-- All that the M-link's port does with a frame it hands on is to its receiver, its accepted count and its waiting response, which the
reset sets (R167). -/
theorem State.handOn_warmReset (s : State) : (s.handOn .m).warmReset = s.warmReset := by
  have sameStations : (s.handOn .m).stations = s.stations := rfl
  simp [State.warmReset, State.handOn_m_io_warm, sameStations]

/-- Settles O54: the answer of R175, and WARM_RESET by whether work was open before the frame. -/
theorem identifyAndWarmReset : Obligations.IdentifyAndWarmReset := by
  unfold Obligations.IdentifyAndWarmReset
  refine ⟨fun s heard => ?identify, fun s heard => ⟨fun busy => ?busy, fun idle => ?taken⟩⟩
  case identify =>
    have took := takeIdentify_answer (s.handOn .m)
    rw [State.handOn_identity, State.identity_eq] at took
    exact exec_identify heard took
  case busy =>
    have working : (s.handOn .m).workOpen = true := (s.handOn_workOpen .m).trans (s.workOpen_iff.2 busy)
    exact exec_warmReset heard (takeWarmReset_busy working)
  case taken =>
    have notWorking : ¬ (s.handOn .m).workOpen = true := by rwa [State.handOn_workOpen, State.workOpen_iff]
    have took := takeWarmReset_taken notWorking
    rw [State.handOn_warmReset] at took
    exact exec_warmReset heard took

end Sys2Proof.Machine

/-! PROOF. The laws that every step keeps (R38, R39, R72, R73, R119, R120, R136, R137), the reset values, and the step itself: each law
assembled from what the ports, the owning blocks and the events keep of it. -/

namespace Sys2Proof.Machine

/-! ### The laws through a step -/

/-- Settles O59: the law of the log speaks of the runs, the sessions, the log and the reserved count, which taking a command off the queue
and sending responses leave alone. -/
theorem stepsKeepTheLogLaw : Obligations.StepsKeepTheLogLaw := by
  unfold Obligations.StepsKeepTheLogLaw
  intro s t law stepped
  exact step_keeps LogLaw_port LogLaw_blocks LogLaw_events (fun _ _ h => h.of_same rfl rfl rfl rfl)
    (fun _ h => h.of_same rfl rfl rfl rfl) law stepped

/-- Settles O60: the laws of the sheet path and the referral queue speak of the runs, the lists, the referrals and the parameters, which
taking a command off the queue and sending responses leave alone. -/
theorem stepsKeepTheSheetLaw : Obligations.StepsKeepTheSheetLaw := by
  unfold Obligations.StepsKeepTheSheetLaw
  intro s t law stepped
  exact step_keeps SheetLaw_port SheetLaw_blocks SheetLaw_events (fun _ _ h => h.of_same rfl rfl rfl rfl)
    (fun _ h => h.of_same rfl rfl rfl rfl) law stepped

/-! ### Reset (R178) -/

/-- No run is open, no session is there and the log is empty at reset. -/
theorem State.reset_logLaw : State.reset.LogLaw := by
  have noRuns : State.reset.openRuns = 0 := by decide
  have noSessions : State.reset.openSessions = 0 := by decide
  refine ⟨?_, by decide⟩
  rw [noRuns, noSessions]
  rfl

/-- Settles O58: the law of the runs and the queue holds after any reset, and State.reset is one of itself. -/
theorem resetMeetsTheLaws : Obligations.ResetMeetsTheLaws :=
  ⟨State.reset_logLaw, State.SheetLaw.reset .powerOn State.reset⟩

/-- Settles O57: the reset values of every block, written out. -/
theorem resetValues : Obligations.ResetValues := by
  unfold Obligations.ResetValues
  intro s port tier bank after
  exact ⟨rfl, rfl, rfl⟩

/-! ### The step -/

theorem step_of_pending {s : State} {c : Instr} {rest : List Instr} (queue : s.pending = c :: rest) :
    step s = exec c { s with pending := rest } := by
  unfold step
  rw [queue]

theorem step_of_idle {s : State} (empty : s.pending = []) : step s = .next s.transmit := by
  unfold step
  rw [empty]

/-- Settles O1: the queue's front command is taken on the state with the queue's rest. -/
theorem stepTakesFrontCommand : Obligations.StepTakesFrontCommand := by
  unfold Obligations.StepTakesFrontCommand
  intro c rest s
  exact step_of_pending rfl

/-- Settles O2: the step of an empty queue is the sending of the oldest responses. -/
theorem idleStepSendsOldestResponses : Obligations.IdleStepSendsOldestResponses := by
  unfold Obligations.IdleStepSendsOldestResponses
  intro s empty
  rw [step_of_idle empty]
  rfl

end Sys2Proof.Machine

/-! PROOF. What a port does with a frame and with a response (R150, R151, R153, R156, R164). -/

namespace Sys2Proof.Machine

/-- A frame on a C-link: its receiver hunts, and the station is heard (R153, R164). -/
theorem State.validFrame_c (s : State) (n : Station) :
    s.validFrame (.c n) =
      { s with
        io := { s.io with cPorts := s.io.cPorts.set n { s.io.cPorts[n] with receiver := .hunt } }
        stations := s.stations.set n
          { s.stations[n] with
            presence := .present
            silence := if s.stations[n].state = .off then s.stations[n].silence else some s.params.silence }
        lostTimers := if s.stations[n].presence = .silent then s.lostTimers.set n none else s.lostTimers
        latched := if s.stations[n].presence = .silent then s.latched ||| 0x00000002#32 else s.latched } := by
  have silent : (s.setReceiver (.c n) .hunt).isSilent n = true ↔ s.stations[n].presence = .silent := beq_iff_eq
  simp only [State.validFrame, State.hearStation, silent]
  rfl

/-- A frame handed on is a valid frame, counted as accepted (R156). -/
theorem State.handOn_eq (s : State) (link : Link) :
    s.handOn link =
      (s.validFrame link).setPort link
        { (s.validFrame link).port link with accepted := min 65535 (((s.validFrame link).port link).accepted + 1) } := by
  rw [State.handOn, State.countAccepted, countUp_eq]

/-- Settles O4: the port's work on each kind of link. -/
theorem frameTakenAndAnswered : Obligations.FrameTakenAndAnswered := by
  unfold Obligations.FrameTakenAndAnswered
  intro s
  exact ⟨s.validFrame_c, rfl, rfl, s.handOn_eq, fun _ _ => rfl, fun _ => rfl, fun _ => rfl⟩

/-! ### A request that its port hands on (R156) -/

/-- The outcome of a request heard on a link of its own kind: what its block takes of the state that the port hands on, answered. -/
theorem request_answered {α : Type} {s t : State} {link : Link} {code : Byte} {kind : LinkKind} {fields : α}
    {take : α → State → Taken} {r : Response} (fits : link.kind = kind) (heard : s.deaf link = false)
    (took : take fields (s.handOn link) = (t, r)) :
    done (s.request link code kind (.of fields) take) = .next (t.respond link r) := by
  rw [State.request_taken heard fits, took]
  rfl

/-- The same on a C-link whose station is ENABLED or DRAINING, where the block's meaning stands behind the station-state test (R160). -/
theorem gated_answered {α : Type} {s t : State} {st : Station} {code : Byte} {fields : α} {take : State → Taken} {r : Response}
    (served : s.serves st) (heard : s.deaf (.c st) = false) (took : take (s.handOn (.c st)) = (t, r)) :
    done (s.request (.c st) code .station (.of fields) (fun _ u => u.gate st take)) = .next (t.respond (.c st) r) :=
  request_answered rfl heard ((State.gate_pass (State.handOn_serves _ served)).trans took)

end Sys2Proof.Machine

/-! PROOF. A request's row at its port, said once for the forty-four rows (R155, R156), and what follows of it: what a port refuses itself,
and what an OFF or HELD station's request is answered (R160). -/

namespace Sys2Proof.Machine

/-! ### A request's row at its port -/

/-- A request's row is a request at its port under its header: a body of a wrong length is malformed there too, one of a right length
reaches the owning block, and the block does with it what `taken` says. -/
structure RequestAt (i : Instr) (h : Header) {α : Type} (body : Body α) (take : α → State → Taken) : Prop where
  request : ∀ s, exec i s = .next (s.request h.link h.code h.kind body take)
  malformed : i.malformed = true → body = .wrongLength
  sized : i.malformed = false → i.wf = true → ∃ fields, body = .of fields
  block : ∀ fields s, body = .of fields → taken i s = take fields s

theorem Body.eq_wrongLength {α : Type} {body : Body α} (malformed : body.malformed = true) : body = .wrongLength := by
  cases body with
  | of fields => cases malformed
  | wrongLength => rfl

theorem Body.eq_of {α : Type} {body : Body α} (sized : body.malformed = false) : ∃ fields, body = .of fields := by
  cases body with
  | of fields => exact ⟨fields, rfl⟩
  | wrongLength => cases sized

/-- A row whose port takes every body of fields. -/
theorem RequestAt.unchecked {i : Instr} {h : Header} {α : Type} {body : Body α} {take : α → State → Taken}
    (request : ∀ s, exec i s = .next (s.request h.link h.code h.kind body take)) (malformed : i.malformed = body.malformed)
    (block : ∀ s, taken i s = Body.take body take s) : RequestAt i h body take where
  request := request
  malformed := fun bad => Body.eq_wrongLength (malformed.symm.trans bad)
  sized := fun good _ => Body.eq_of (malformed.symm.trans good)
  block := fun fields s is => by rw [block s, is]; rfl

theorem bodyIf_of {α : Type} {check : α → Bool} {fields : α} (passed : check fields = true) :
    bodyIf check (.of fields) = .of fields :=
  if_pos passed

theorem bodyIf_fields {α : Type} {check : α → Bool} {body : Body α} {fields : α} (is : bodyIf check body = .of fields) :
    body = .of fields := by
  cases body with
  | of got =>
    simp only [bodyIf] at is
    split at is
    case isTrue => exact is
    case isFalse => cases is
  | wrongLength => cases is

/-- A row whose port checks the length of a body's variable part. -/
theorem RequestAt.checked {i : Instr} {h : Header} {α : Type} {body : Body α} {check : α → Bool} {take : α → State → Taken}
    (request : ∀ s, exec i s = .next (s.request h.link h.code h.kind (bodyIf check body) take))
    (malformed : i.malformed = body.malformed) (wf : i.wf = body.all check) (block : ∀ s, taken i s = Body.take body take s) :
    RequestAt i h (bodyIf check body) take where
  request := request
  malformed := fun bad => by rw [Body.eq_wrongLength (malformed.symm.trans bad)]; rfl
  sized := fun good ok => by
    obtain ⟨fields, rfl⟩ := Body.eq_of (malformed.symm.trans good)
    exact ⟨fields, bodyIf_of (wf.symm.trans ok)⟩
  block := fun fields s is => by rw [block s, bodyIf_fields is]; rfl

/-- Every row with a header is a request at its port. -/
theorem Instr.requestAt {i : Instr} {h : Header} (header : i.header = some h) :
    ∃ (α : Type) (body : Body α) (take : α → State → Taken), RequestAt i h body take := by
  cases i with
  | advance link body => cases header; exact ⟨_, _, _, .checked (fun _ => rfl) rfl rfl fun _ => rfl⟩
  | priceWrite link body => cases header; exact ⟨_, _, _, .checked (fun _ => rfl) rfl rfl fun _ => rfl⟩
  | _ => cases header <;> exact ⟨_, _, _, .unchecked (fun _ => rfl) rfl fun _ => rfl⟩

/-- A well-formed request that its port hands on is answered with what its block takes of it. -/
theorem exec_handedOn {i : Instr} {h : Header} {s : State} (header : i.header = some h) (sized : i.malformed = false)
    (wf : i.wf = true) (fits : h.link.kind = h.kind) (heard : s.deaf h.link = false) :
    exec i s = .next ((taken i (s.handOn h.link)).1.respond h.link (taken i (s.handOn h.link)).2) := by
  obtain ⟨α, body, take, at_⟩ := Instr.requestAt header
  obtain ⟨fields, rfl⟩ := at_.sized sized wf
  rw [at_.request s, State.request_taken heard fits, at_.block fields _ rfl]

/-! ### What a port refuses itself (R153, R156) -/

theorem State.request_deaf {α : Type} {s : State} {link : Link} (code : Byte) (kind : LinkKind) (body : Body α)
    (take : α → State → Taken) (deaf : s.deaf link = true) : s.request link code kind body take = s :=
  if_pos deaf

theorem State.request_otherKind {α : Type} {s : State} {link : Link} (code : Byte) {kind : LinkKind} (body : Body α)
    (take : α → State → Taken) (heard : s.deaf link = false) (other : link.kind ≠ kind) :
    s.request link code kind body take = (s.validFrame link).refuseAccess link code := by
  unfold State.request
  rw [if_neg (by simp [heard]), if_pos other]

theorem State.request_wrongLength {α : Type} {s : State} {link : Link} (code : Byte) {kind : LinkKind} (take : α → State → Taken)
    (heard : s.deaf link = false) (fits : link.kind = kind) :
    s.request link code kind .wrongLength take = (s.validFrame link).refuseFormat link := by
  unfold State.request
  rw [if_neg (by simp [heard]), if_neg (not_not_intro fits)]

/-- What ACCESS records: the refused counter, the violation and the event (R156, R157). -/
theorem State.refuseAccess_eq (t : State) (link : Link) (code : Byte) :
    t.refuseAccess link code =
      let u := t.setPort link { t.port link with refused := min 65535 ((t.port link).refused + 1) }
      { u with io := { u.io with lastViolation := some ⟨link, code⟩ }, latched := u.latched ||| 0x00000080#32 }.respond
        link ⟨.access, []⟩ := by
  rw [State.refuseAccess, State.countRefused, countUp_eq]
  rfl

theorem State.refuseFormat_eq (t : State) (link : Link) :
    t.refuseFormat link =
      (t.setPort link { t.port link with refused := min 65535 ((t.port link).refused + 1) }).respond link ⟨.badFormat, []⟩ := by
  rw [State.refuseFormat, State.countRefused, countUp_eq]
  rfl

/-- Settles O5: the ways a frame ends at its port before a block takes it, for a request's row and for a code that is none. -/
theorem portRefusesBeforeTheBlock : Obligations.PortRefusesBeforeTheBlock := by
  unfold Obligations.PortRefusesBeforeTheBlock
  refine ⟨fun i h s header => ?request, fun link code s => ⟨fun deaf => ?codeDeaf, fun heard => ?codeHeard⟩⟩
  case request =>
    obtain ⟨α, body, take, at_⟩ := Instr.requestAt header
    rw [at_.request s]
    refine ⟨fun deaf => ?deaf, fun heard other => ?access, fun heard fits malformed => ?format⟩
    case deaf => rw [State.request_deaf _ _ _ _ deaf]
    case access => rw [State.request_otherKind _ _ _ heard other, State.refuseAccess_eq]
    case format =>
      rw [at_.malformed malformed, State.request_wrongLength _ _ heard fits, State.refuseFormat_eq]
  case codeDeaf => exact congrArg Host.Outcome.next (if_pos deaf)
  case codeHeard =>
    have refused : onInvalidRequestCode link code s = (s.validFrame link).refuseFormat link := if_neg (by simp [heard])
    exact congrArg Host.Outcome.next (refused.trans (State.refuseFormat_eq _ _))

/-! ### OFF and HELD stations (R160) -/

theorem State.gate_off {s : State} {st : Station} (take : State → Taken) (off : s.stations[st].state = .off) :
    s.gate st take = (s, ⟨.stationOff, []⟩) := by
  unfold State.gate
  rw [off]
  rfl

theorem State.gate_held {s : State} {st : Station} (take : State → Taken) (held : s.stations[st].state = .held) :
    s.gate st take = (s, ⟨.held, []⟩) := by
  unfold State.gate
  rw [held]
  rfl

/-- A template out of its ranges (R45, check 1). -/
theorem takeLoad_badFormat {f : LoadFields} (st : Station) (s : State) (bad : readTemplate f = none) :
    takeLoad st f s = (s, ⟨.badFormat, []⟩) := by
  unfold takeLoad
  rw [bad]
  rfl

/-- Overrides that R54 refuses. -/
theorem takeAdvance_badFormat {f : AdvanceFields} (st : Station) (s : State) (bad : readOverrides f.overrides ⟨none, none⟩ = none) :
    takeAdvance st f s = (s, ⟨.badFormat, []⟩) := by
  unfold takeAdvance
  rw [bad]
  rfl

/-- A LOAD with a good template meets the station-state test first. -/
theorem takeLoad_gate {f : LoadFields} {template : Template} (st : Station) (s : State) (good : readTemplate f = some template) :
    takeLoad st f s =
      s.gate st (fun s =>
        if s.stations[st].state = .draining then s.refuse .disabled else s.loadChecks st f.account template) := by
  unfold takeLoad
  rw [good]

/-- An ADVANCE with good overrides meets the station-state test first. -/
theorem takeAdvance_gate {f : AdvanceFields} {o : Overrides} (st : Station) (s : State)
    (good : readOverrides f.overrides ⟨none, none⟩ = some o) :
    takeAdvance st f s = s.gate st (fun s => s.advanceChecks st f o) := by
  unfold takeAdvance
  rw [good]

/-- Every C-link request whose early field checks pass stands behind the station-state test. -/
theorem taken_gate {i : Instr} {h : Header} {n : Station} (header : i.header = some h) (link : h.link = .c n)
    (kind : h.kind = .station) (sized : i.malformed = false)
    (template : ∀ f, i = .load (.c n) (.of f) → readTemplate f ≠ none)
    (overrides : ∀ f, i = .advance (.c n) (.of f) → readOverrides f.overrides ⟨none, none⟩ ≠ none) (t : State) :
    ∃ take, taken i t = t.gate n take := by
  cases i with
  | load l body =>
    cases header; cases link
    obtain ⟨f, rfl⟩ := Body.eq_of sized
    obtain ⟨good, read⟩ := Option.ne_none_iff_exists'.1 (template f rfl)
    exact ⟨_, takeLoad_gate n t read⟩
  | advance l body =>
    cases header; cases link
    obtain ⟨f, rfl⟩ := Body.eq_of sized
    obtain ⟨good, read⟩ := Option.ne_none_iff_exists'.1 (overrides f rfl)
    exact ⟨_, takeAdvance_gate n t read⟩
  | query l body =>
    cases header; cases link
    obtain ⟨f, rfl⟩ := Body.eq_of sized
    exact ⟨fun s => s.answer (s.queryBody n), rfl⟩
  | endRun l body =>
    cases header; cases link
    obtain ⟨f, rfl⟩ := Body.eq_of sized
    exact ⟨fun s => s.endRun n, rfl⟩
  | delivered l body =>
    cases header; cases link
    obtain ⟨f, rfl⟩ := Body.eq_of sized
    exact ⟨fun s => s.delivered n f.toNat, rfl⟩
  | jam l body =>
    cases header; cases link
    obtain ⟨f, rfl⟩ := Body.eq_of sized
    exact ⟨fun s => s.jam n f.lastDelivered.toNat f.recovered.toNat, rfl⟩
  | clear l body =>
    cases header; cases link
    obtain ⟨f, rfl⟩ := Body.eq_of sized
    exact ⟨fun s => s.clear n, rfl⟩
  | endSession l body =>
    cases header; cases link
    obtain ⟨f, rfl⟩ := Body.eq_of sized
    exact ⟨fun s => s.endSession n, rfl⟩
  | _ => cases header <;> cases kind

/-- Settles O6: the early field checks, and then the station-state test on the state that the port hands on. -/
theorem offAndHeldStationsRefuse : Obligations.OffAndHeldStationsRefuse := by
  unfold Obligations.OffAndHeldStationsRefuse
  intro i h n s header link kind sized wf heard
  have answered {t : State} {r : Response} (took : taken i (s.handOn (.c n)) = (t, r)) :
      exec i s = .next (t.respond (.c n) r) := by
    have result := exec_handedOn (s := s) header sized wf (by rw [link, kind]; rfl) (by rwa [link])
    rwa [link, took] at result
  have sameState : ((s.handOn (.c n)).stations[n]).state = s.stations[n].state := s.handOn_station_state (.c n) n
  refine ⟨fun f is bad => ?template, fun f is bad => ?overrides,
    fun template overrides => ⟨fun off => ?off, fun held => ?held⟩⟩
  case template => subst is; exact answered (takeLoad_badFormat n _ bad)
  case overrides => subst is; exact answered (takeAdvance_badFormat n _ bad)
  case off =>
    obtain ⟨take, gated⟩ := taken_gate header link kind sized template overrides (s.handOn (.c n))
    exact answered (gated.trans (State.gate_off take (sameState.trans off)))
  case held =>
    obtain ⟨take, gated⟩ := taken_gate header link kind sized template overrides (s.handOn (.c n))
    exact answered (gated.trans (State.gate_held take (sameState.trans held)))

end Sys2Proof.Machine

/-! PROOF. Frames and their bodies (R152, R154, R179): the layout, the codes, and the round trip of every command that a frame spells. -/

namespace Sys2Proof.Machine

/-! ### Fields, most significant byte first -/

theorem be1_byte (x : Byte) : be1 x.toNat = [x] := by
  simp [be1]

theorem be2_half (x : Half) : be2 x.toNat = [x.extractLsb' 8 8, x.extractLsb' 0 8] := by
  have high : BitVec.ofNat 8 (x.toNat / 256) = x.extractLsb' 8 8 :=
    BitVec.eq_of_toNat_eq (by simp [BitVec.extractLsb'_toNat, Nat.shiftRight_eq_div_pow])
  have low : BitVec.ofNat 8 x.toNat = x.extractLsb' 0 8 := BitVec.eq_of_toNat_eq (by simp [BitVec.extractLsb'_toNat])
  rw [be2, high, low]

theorem be4_word (x : Word) :
    be4 x.toNat = [x.extractLsb' 24 8, x.extractLsb' 16 8, x.extractLsb' 8 8, x.extractLsb' 0 8] := by
  have byte (shift : Nat) : BitVec.ofNat 8 (x.toNat / 2 ^ shift) = x.extractLsb' shift 8 :=
    BitVec.eq_of_toNat_eq (by simp [BitVec.extractLsb'_toNat, Nat.shiftRight_eq_div_pow])
  have low : BitVec.ofNat 8 x.toNat = x.extractLsb' 0 8 := by rw [← byte 0, Nat.pow_zero, Nat.div_one]
  rw [be4, ← byte 24, ← byte 16, ← byte 8, low]
  norm_num

theorem be4s_word (x : Word) : be4s x.toInt = be4 x.toNat := by
  rw [be4s, BitVec.ofInt_toInt]

theorem frameBytes_eq (address code : Byte) (body : List Byte) :
    frameBytes address code body =
      [0xA5, address, BitVec.ofNat 8 body.length, code] ++ body ++
        [(crc16 (address :: BitVec.ofNat 8 body.length :: code :: body)).extractLsb' 8 8,
          (crc16 (address :: BitVec.ofNat 8 body.length :: code :: body)).extractLsb' 0 8] := by
  rw [frameBytes, be2_half]
  rfl

/-- The check of the nine bytes "123456789" (R152). -/
theorem crc16_check : crc16 [0x31, 0x32, 0x33, 0x34, 0x35, 0x36, 0x37, 0x38, 0x39] = 0x29B1 := by decide +kernel

/-! ### Addresses (R154) -/

theorem Link.address_c_toNat (n : Station) : (Link.c n).address.toNat = n.val := by
  rw [Link.address, BitVec.toNat_ofNat]
  omega

/-- A response on a C-link carries the link's address plus 0x80. -/
theorem Response.bytes_c (r : Response) (n : Station) :
    r.bytes (.c n) = frameBytes (BitVec.ofNat 8 (0x80 + n.val)) (BitVec.ofNat 8 r.code.code) r.body := by
  have address : (Link.c n).address + 0x80 = BitVec.ofNat 8 (0x80 + n.val) := by
    rw [Link.address, Nat.add_comm, BitVec.ofNat_add]
    rfl
  rw [Response.bytes, address]

/-! ### The frame of a request -/

theorem spell_frame {α : Type} {link : Link} {code : Byte} {write : α → List Byte} {body : Body α} {f : RequestFrame}
    (spelled : spell link code write body = some f) : f.link = link ∧ f.code = code := by
  obtain ⟨x, _, rfl⟩ := spell_some spelled
  exact ⟨rfl, rfl⟩

/-- A request's frame carries the link and the code of its header. -/
theorem encodeRequest_header {i : Instr} {h : Header} {f : RequestFrame} (header : i.header = some h)
    (spelled : encodeRequest i = some f) : f.link = h.link ∧ f.code = h.code := by
  cases i with
  | _ => cases header <;> exact spell_frame spelled

/-- Settles O7: the layout of a frame and of its fields, and the tables of codes. -/
theorem frameLayoutAndCheck : Obligations.FrameLayoutAndCheck := by
  unfold Obligations.FrameLayoutAndCheck
  refine ⟨frameBytes_eq, crc16_check, ⟨be1_byte, be2_half, be4_word, be4s_word⟩, ⟨Link.address_c_toNat, rfl, rfl⟩,
    fun r => ⟨r.bytes_c, rfl, rfl⟩, fun i h f => encodeRequest_header, fun link station action flags => ?actions,
    ⟨rfl, rfl, rfl, rfl, rfl⟩, ?enumerations⟩
  case actions => exact ⟨rfl, rfl, rfl, rfl, rfl, rfl⟩
  case enumerations =>
    exact ⟨rfl, rfl, rfl, rfl, rfl, rfl, rfl, rfl, rfl, rfl, rfl, rfl, rfl, rfl, rfl, rfl, rfl, rfl, rfl, rfl⟩

/-! ### The round trip -/

/-- Every constructor's law of the round trip, as one law of commands. -/
theorem coded : ∀ i : Instr, Laws.Coded.Statement i
  | .load x y => Laws.Coded.load x y
  | .advance x y => Laws.Coded.advance x y
  | .query x y => Laws.Coded.query x y
  | .endRun x y => Laws.Coded.endRun x y
  | .delivered x y => Laws.Coded.delivered x y
  | .jam x y => Laws.Coded.jam x y
  | .clear x y => Laws.Coded.clear x y
  | .endSession x y => Laws.Coded.endSession x y
  | .authNotice x y => Laws.Coded.authNotice x y
  | .sessionQuery x y => Laws.Coded.sessionQuery x y
  | .poll x y => Laws.Coded.poll x y
  | .captureResult x y => Laws.Coded.captureResult x y
  | .acctCreate x y => Laws.Coded.acctCreate x y
  | .acctUpdate x y => Laws.Coded.acctUpdate x y
  | .acctRead x y => Laws.Coded.acctRead x y
  | .acctNext x y => Laws.Coded.acctNext x y
  | .acctDelete x y => Laws.Coded.acctDelete x y
  | .priceWrite x y => Laws.Coded.priceWrite x y
  | .priceRead x y => Laws.Coded.priceRead x y
  | .priceSwap x y => Laws.Coded.priceSwap x y
  | .runAbort x y => Laws.Coded.runAbort x y
  | .captureHead x y => Laws.Coded.captureHead x y
  | .captureAbandon x y => Laws.Coded.captureAbandon x y
  | .referralFetch x y => Laws.Coded.referralFetch x y
  | .referralList x y => Laws.Coded.referralList x y
  | .referralReply x y => Laws.Coded.referralReply x y
  | .logRead x y => Laws.Coded.logRead x y
  | .logRelease x y => Laws.Coded.logRelease x y
  | .logStatus x y => Laws.Coded.logStatus x y
  | .meterRead x y => Laws.Coded.meterRead x y
  | .linkStats x y => Laws.Coded.linkStats x y
  | .stationSetNone x y => Laws.Coded.stationSetNone x y
  | .stationSetEnable x y => Laws.Coded.stationSetEnable x y
  | .stationSetDisable x y => Laws.Coded.stationSetDisable x y
  | .stationSetHold x y => Laws.Coded.stationSetHold x y
  | .stationSetRelease x y => Laws.Coded.stationSetRelease x y
  | .stationSetOff x y => Laws.Coded.stationSetOff x y
  | .stationRead x y => Laws.Coded.stationRead x y
  | .attnExchange x y => Laws.Coded.attnExchange x y
  | .setParam x y => Laws.Coded.setParam x y
  | .getParam x y => Laws.Coded.getParam x y
  | .identify x y => Laws.Coded.identify x y
  | .teardown x y => Laws.Coded.teardown x y
  | .warmReset x y => Laws.Coded.warmReset x y
  | .invalidRequestCode x y => Laws.Coded.invalidRequestCode x y
  | .frameDiscarded x y => Laws.Coded.frameDiscarded x y
  | .receiveGapTimeout x => Laws.Coded.receiveGapTimeout x
  | .selectReleased => Laws.Coded.selectReleased
  | .powerOn => Laws.Coded.powerOn
  | .resetPin => Laws.Coded.resetPin
  | .timebaseTick => Laws.Coded.timebaseTick
  | .runIdleTimerExpiry x => Laws.Coded.runIdleTimerExpiry x
  | .jamTimerExpiry x => Laws.Coded.jamTimerExpiry x
  | .lostTimerExpiry x => Laws.Coded.lostTimerExpiry x
  | .silenceTimerExpiry x => Laws.Coded.silenceTimerExpiry x
  | .cardIdleTimerExpiry x => Laws.Coded.cardIdleTimerExpiry x
  | .referralTimeout x => Laws.Coded.referralTimeout x
  | .captureStallTimingExpiry => Laws.Coded.captureStallTimingExpiry
  | .responseClockedOut => Laws.Coded.responseClockedOut

/-- Settles O8: the law of the round trip, command by command. -/
theorem decodeOfEncodeIsTheCommand : Obligations.DecodeOfEncodeIsTheCommand := by
  unfold Obligations.DecodeOfEncodeIsTheCommand
  intro i f wf spelled
  exact coded i wf f spelled

end Sys2Proof.Machine

/-! PROOF. What no command but PRICE_WRITE and the resets touches: the queue of commands waiting, and the prices of both banks (R26). Block by
block and event by event, and the two statements assembled from them. -/

namespace Sys2Proof.Machine

/-- From one state to another the commands waiting and the prices of both banks stay. -/
structure State.KeepsPrices (s t : State) : Prop where
  queue : t.pending = s.pending
  pricesA : t.bankA.tiers = s.bankA.tiers
  pricesB : t.bankB.tiers = s.bankB.tiers

namespace State.KeepsPrices

theorem refl (s : State) : s.KeepsPrices s := ⟨rfl, rfl, rfl⟩

/-- The queue and the prices are three fields of the state. -/
theorem of_same {o s t : State} (h : o.KeepsPrices s) (queue : t.pending = s.pending) (a : t.bankA.tiers = s.bankA.tiers)
    (b : t.bankB.tiers = s.bankB.tiers) : o.KeepsPrices t :=
  ⟨queue.trans h.queue, a.trans h.pricesA, b.trans h.pricesB⟩

theorem bank {s t : State} (h : s.KeepsPrices t) (name : BankName) : (t.bank name).tiers = (s.bank name).tiers := by
  cases name with
  | a => exact h.pricesA
  | b => exact h.pricesB

variable {o s : State} (h : o.KeepsPrices s)
include h

/-! ### Runs and sheets (Chapters 3 and 4) -/

theorem openRun (st : Station) (n : Word) (slot : SlotKind) (tier : Tier) (bank : BankName) (template : Template) :
    o.KeepsPrices (s.openRun st n slot tier bank template) :=
  h.of_same rfl (by cases bank <;> rfl) (by cases bank <;> rfl)

theorem openReferral (st : Station) (n : Word) (bank : BankName) (template : Template) :
    o.KeepsPrices (s.openReferral st n bank template) :=
  h.of_same rfl (by cases bank <;> rfl) (by cases bank <;> rfl)

theorem closeJob (st : Station) (j : Job) (reason : CloseReason) : o.KeepsPrices (s.closeJob st j reason) := by
  obtain ⟨state, account, slot, tier, bank⟩ := j
  exact h.of_same rfl (by cases bank <;> rfl) (by cases bank <;> rfl)

theorem returnJob (st : Station) (j : Job) (outcome : LastOutcome) : o.KeepsPrices (s.returnJob st j outcome) := by
  obtain ⟨state, account, slot, tier, bank⟩ := j
  exact h.of_same rfl (by cases bank <;> rfl) (by cases bank <;> rfl)

theorem resolveLoad (st : Station) (n : Word) (bank : BankName) (template : Template) :
    o.KeepsPrices (s.resolveLoad st n bank template).1 := by
  unfold State.resolveLoad State.loadCard State.loadRemote State.loadHouse State.loadOn State.loadReferral
  repeat' split
  all_goals first | exact h | exact h.openRun .. | exact h.openReferral ..

theorem takeLoad (st : Station) (f : LoadFields) : o.KeepsPrices (takeLoad st f s).1 := by
  unfold Machine.takeLoad
  split
  · exact h
  · refine State.gate_keeps h ?_
    unfold State.loadChecks
    repeat' split
    all_goals first | exact h | exact h.of_same rfl rfl rfl | exact h.resolveLoad ..

theorem trySheet {t : State} {st : Station} {k : SheetKind} {sides : Sides} (granted : s.trySheet st k sides = .granted t) :
    o.KeepsPrices t := by
  unfold State.trySheet at granted
  repeat' split at granted
  all_goals cases granted
  exact h.of_same rfl rfl rfl

omit h in
theorem burst {st : Station} {k : SheetKind} {sides : Sides} (count : Nat) :
    ∀ {s : State}, o.KeepsPrices s → o.KeepsPrices (State.burst st k sides count s).state := by
  induction count with
  | zero => exact id
  | succ count ih =>
    intro s h
    unfold State.burst
    split
    case h_1 granted => exact ih (h.trySheet granted)
    case h_2 => exact h

theorem askTopup (st : Station) (j : Job) (stop : StopReason) (x : Nat) : o.KeepsPrices (s.askTopup st j stop x) := by
  unfold State.askTopup
  split
  · exact h.of_same rfl rfl rfl
  · exact h

theorem advanceRun (st : Station) (j : Job) (f : AdvanceFields) (ov : Overrides) : o.KeepsPrices (s.advanceRun st j f ov).1 := by
  unfold State.advanceRun State.endBurst
  split
  · split
    · exact burst _ h
    · exact ((burst _ h).of_same (t := State.setJob _ _ _) rfl rfl rfl).askTopup ..
  · split <;> exact h

theorem takeAdvance (st : Station) (f : AdvanceFields) : o.KeepsPrices (takeAdvance st f s).1 := by
  unfold Machine.takeAdvance
  split
  · exact h
  · refine State.gate_keeps h ?_
    unfold State.advanceChecks
    repeat' split
    all_goals first | exact h | exact h.advanceRun ..

theorem endRun (st : Station) : o.KeepsPrices (s.endRun st).1 := by
  unfold State.endRun State.endActive
  repeat' split
  all_goals first | exact h | exact h.closeJob .. | exact h.returnJob .. | exact h.of_same rfl rfl rfl

theorem takeRunAbort (x : Byte) : o.KeepsPrices (takeRunAbort x s).1 := by
  unfold Machine.takeRunAbort
  repeat' split
  all_goals first | exact h | exact h.closeJob .. | exact h.returnJob ..

theorem interim (st : Station) : o.KeepsPrices (s.interim st).1 := by
  unfold State.interim
  repeat' split
  all_goals first | exact h | exact h.of_same rfl rfl rfl

theorem finishIfEmpty (st : Station) : o.KeepsPrices (s.finishIfEmpty st).1 := by
  unfold State.finishIfEmpty
  repeat' split
  all_goals first | exact h | exact h.closeJob ..

theorem delivered (st : Station) (seq : Nat) : o.KeepsPrices (s.delivered st seq).1 := by
  have sheets (n : Nat) : o.KeepsPrices ((s.deliver st n).restartIdle st) := h.of_same rfl rfl rfl
  unfold State.delivered State.deliverUpTo
  repeat' split
  all_goals first | exact h | exact ((sheets _).interim st).finishIfEmpty st

theorem bringOut (st : Station) (n : Nat) : o.KeepsPrices (s.bringOut st n).1 := by
  unfold State.bringOut
  split
  · exact h
  · exact (h.of_same (t := s.deliver st n) rfl rfl rfl).interim st

theorem endJam (st : Station) (j : Job) : o.KeepsPrices (s.endJam st j).1 := by
  unfold State.endJam
  split
  · exact h.closeJob ..
  · exact h.of_same rfl rfl rfl

theorem jam (st : Station) (last recovered : Nat) : o.KeepsPrices (s.jam st last recovered).1 := by
  have run (j : Job) : o.KeepsPrices (s.jamRun st j last recovered).1 :=
    ((h.bringOut st _).of_same (t := State.loseSheets _ _ _) rfl rfl rfl).endJam st _
  have again (j : Job) : o.KeepsPrices (s.jamAgain st j).1 := h.of_same rfl rfl rfl
  unfold State.jam
  split
  · exact h
  · split
    · exact h
    · exact again _
    · exact run _
    · exact run _
    · exact run _

theorem clear (st : Station) : o.KeepsPrices (s.clear st).1 := by
  unfold State.clear
  repeat' split
  all_goals first | exact h | exact h.of_same rfl rfl rfl

/-! ### Card sessions and the capture queue (Chapter 5) -/

theorem takeAuthNotice (f : AuthNoticeFields) : o.KeepsPrices (takeAuthNotice f s).1 := by
  unfold Machine.takeAuthNotice State.authChecks State.authOpen State.authTopUp
  repeat' split
  all_goals first | exact h | exact h.of_same rfl rfl rfl

theorem leaveOpen (st : Station) (x : Session) : o.KeepsPrices (s.leaveOpen st x) := by
  unfold State.leaveOpen
  split <;> exact h.of_same rfl rfl rfl

theorem endSession (st : Station) : o.KeepsPrices (s.endSession st).1 := by
  unfold State.endSession
  repeat' split
  all_goals first | exact h | exact h.leaveOpen ..

theorem logSession (st : Station) : o.KeepsPrices (s.logSession st) := by
  unfold State.logSession
  repeat' split
  all_goals first | exact h | exact h.of_same rfl rfl rfl

omit h in
theorem tryWait : ∀ (wait : List Station) {s : State}, o.KeepsPrices s → o.KeepsPrices (State.tryWait wait s)
  | [], _, h => h.of_same rfl rfl rfl
  | st :: rest, s, h => by
    unfold State.tryWait
    repeat' split
    all_goals first | exact h.of_same rfl rfl rfl | exact tryWait rest (h.of_same rfl rfl rfl)

theorem removeHead (head : Order) (rest : List Order) (outcome : AuthOutcome) : o.KeepsPrices (s.removeHead head rest outcome) := by
  have stored : o.KeepsPrices (s.storeOutcome head rest outcome) := h.of_same rfl rfl rfl
  exact (tryWait _ (stored.logSession head.station)).of_same rfl rfl rfl

theorem takeCaptureResult (f : CaptureResultFields) : o.KeepsPrices (takeCaptureResult f s).1 := by
  have latched (c : Bool) : o.KeepsPrices (s.latchIf c .captureFailed) := h.of_same rfl rfl rfl
  unfold Machine.takeCaptureResult
  repeat' split
  all_goals first | exact h | exact (latched _).removeHead ..

theorem takeCaptureAbandon (f : CaptureAbandonFields) : o.KeepsPrices (takeCaptureAbandon f s).1 := by
  unfold Machine.takeCaptureAbandon
  repeat' split
  all_goals first | exact h | exact h.removeHead ..

/-! ### The console's requests -/

theorem adjust (n : Word) (delta balance : Int) : o.KeepsPrices (s.adjust n delta balance) := by
  unfold State.adjust
  split
  · exact h
  · exact h.of_same rfl rfl rfl

theorem takeAcctCreate (f : AcctCreateFields) : o.KeepsPrices (takeAcctCreate f s).1 := by
  unfold Machine.takeAcctCreate
  repeat' split
  all_goals first | exact h | exact (h.of_same (t := s.addHouse _) rfl rfl rfl).adjust ..

theorem takeAcctUpdate (f : AcctUpdateFields) : o.KeepsPrices (takeAcctUpdate f s).1 := by
  unfold Machine.takeAcctUpdate
  repeat' split
  all_goals first | exact h | exact (h.of_same (t := s.replaceHouse _) rfl rfl rfl).adjust ..

theorem takeAcctDelete (n : Word) : o.KeepsPrices (takeAcctDelete n s).1 := by
  unfold Machine.takeAcctDelete
  repeat' split
  all_goals first | exact h | exact h.of_same rfl rfl rfl

theorem takePriceSwap (x : Byte) : o.KeepsPrices (takePriceSwap x s).1 := by
  unfold Machine.takePriceSwap
  split
  · exact h
  · rename_i name _
    repeat' split
    all_goals first | exact h | exact h.of_same rfl (by cases name <;> rfl) (by cases name <;> rfl)

theorem takeReferralFetch (u : Unit) : o.KeepsPrices (takeReferralFetch u s).1 := by
  unfold Machine.takeReferralFetch
  split
  · exact h
  · exact h.of_same rfl rfl rfl

theorem reply (r : Referral) (d : Decision) : o.KeepsPrices (s.reply r d) := by
  have removed : o.KeepsPrices (s.removeReferral r.id) := h.of_same rfl rfl rfl
  unfold State.reply State.replyOpen State.replyTopup
  repeat' split
  all_goals first | exact removed | exact removed.returnJob .. | exact removed.of_same rfl rfl rfl

theorem takeReferralReply (f : ReferralReplyFields) : o.KeepsPrices (takeReferralReply f s).1 := by
  unfold Machine.takeReferralReply
  repeat' split
  all_goals first | exact h | exact h.reply ..

theorem takeLogRelease (seq : Half) : o.KeepsPrices (takeLogRelease seq s).1 := by
  unfold Machine.takeLogRelease
  split
  · exact h
  · exact h.of_same rfl rfl rfl

theorem takeLinkStats (f : LinkStatsFields) : o.KeepsPrices (takeLinkStats f s).1 := by
  unfold Machine.takeLinkStats
  split
  · exact h
  · dsimp only
    split
    · exact h.of_same (by simp) (by simp) (by simp)
    · exact h

theorem takeStationSetNone (f : StationSetNoneFields) : o.KeepsPrices (takeStationSetNone f s).1 := by
  unfold Machine.takeStationSetNone
  repeat' split
  all_goals first | exact h | exact h.of_same rfl rfl rfl

theorem takeAction {action : State → Station → Option Byte → Taken} (f : StationSetFields)
    (keeps : ∀ st flags, o.KeepsPrices (action s st flags).1) : o.KeepsPrices (takeAction action f s).1 := by
  unfold Machine.takeAction
  split
  · exact h
  · exact keeps ..

theorem enable (st : Station) (flags : Option Byte) : o.KeepsPrices (s.enable st flags).1 := by
  unfold State.enable
  split <;> first | exact h | exact h.of_same rfl rfl rfl

theorem disable (st : Station) (flags : Option Byte) : o.KeepsPrices (s.disable st flags).1 := by
  unfold State.disable
  repeat' split
  all_goals first | exact h | exact h.of_same rfl rfl rfl

theorem hold (st : Station) (flags : Option Byte) : o.KeepsPrices (s.hold st flags).1 := by
  unfold State.hold
  split <;> first | exact h | exact h.of_same rfl rfl rfl

theorem release (st : Station) (flags : Option Byte) : o.KeepsPrices (s.release st flags).1 := by
  unfold State.release
  split <;> first | exact h | exact h.of_same rfl rfl rfl

theorem turnOff (st : Station) (flags : Option Byte) : o.KeepsPrices (s.turnOff st flags).1 := by
  unfold State.turnOff State.turnOffWhenFree
  repeat' split
  all_goals first | exact h | exact h.of_same rfl rfl rfl

theorem takeSetParam (f : SetParamFields) : o.KeepsPrices (takeSetParam f s).1 := by
  unfold Machine.takeSetParam
  repeat' split
  all_goals first | exact h | exact h.of_same rfl rfl rfl

theorem teardownRun (st : Station) : o.KeepsPrices (s.teardownRun st) := by
  unfold State.teardownRun
  repeat' split
  all_goals first | exact h | exact h.closeJob .. | exact h.returnJob ..

theorem teardownSession (st : Station) : o.KeepsPrices (s.teardownSession st) := by
  unfold State.teardownSession
  repeat' split
  all_goals first | exact h | exact h.leaveOpen ..

omit h in
theorem foldl {pass : State → Station → State} (keeps : ∀ {s : State}, o.KeepsPrices s → ∀ st, o.KeepsPrices (pass s st))
    (stations : List Station) : ∀ {s : State}, o.KeepsPrices s → o.KeepsPrices (stations.foldl pass s) := by
  induction stations with
  | nil => exact id
  | cons st rest ih => exact fun h => ih (keeps h st)

theorem teardown : o.KeepsPrices s.teardown :=
  foldl teardownSession _ (foldl teardownRun _ h)

theorem takeTeardown (u : Unit) : o.KeepsPrices (takeTeardown u s).1 := by
  have same : (Machine.takeTeardown u s).1 = s.teardown := by rw [Machine.takeTeardown]
  rw [same]
  exact h.teardown

theorem takeWarmReset (u : Unit) : o.KeepsPrices (takeWarmReset u s).1 := by
  unfold Machine.takeWarmReset
  split
  · exact h
  · exact h.of_same rfl rfl rfl

end State.KeepsPrices

/-! ### Every block but that of PRICE_WRITE -/

/-- A block that only answers leaves the state as it is. -/
theorem Body.take_reads {α : Type} {body : Body α} {block : α → State → Taken} {s : State} (reads : ∀ f, (block f s).1 = s) :
    (Body.take body block s).1 = s :=
  Body.take_keeps (P := fun t => t = s) rfl reads

theorem takeSessionQuery_state (x : Byte) (s : State) : (takeSessionQuery x s).1 = s := by
  unfold takeSessionQuery
  split <;> rfl

theorem takePoll_state (u : Unit) (s : State) : (takePoll u s).1 = s := by
  unfold takePoll
  split <;> rfl

theorem takeAcctRead_state (n : Word) (s : State) : (takeAcctRead n s).1 = s := by
  unfold takeAcctRead
  repeat' split
  all_goals rfl

theorem takeAcctNext_state (n : Word) (s : State) : (takeAcctNext n s).1 = s := by
  unfold takeAcctNext
  split <;> rfl

theorem takePriceRead_state (f : PriceReadFields) (s : State) : (takePriceRead f s).1 = s := by
  unfold takePriceRead
  split <;> rfl

theorem takeLogRead_state (u : Unit) (s : State) : (takeLogRead u s).1 = s := by
  unfold takeLogRead
  split <;> rfl

theorem takeMeterRead_state (x : Byte) (s : State) : (takeMeterRead x s).1 = s := by
  unfold takeMeterRead
  split <;> rfl

theorem takeStationRead_state (x : Byte) (s : State) : (takeStationRead x s).1 = s := by
  unfold takeStationRead
  split <;> rfl

theorem takeGetParam_state (x : Byte) (s : State) : (takeGetParam x s).1 = s := by
  unfold takeGetParam
  split <;> rfl

/-- Every request but a PRICE_WRITE, as its block takes it. -/
theorem State.KeepsPrices.taken {o s : State} (h : o.KeepsPrices s) {i : Instr} (other : ∀ link body, i ≠ .priceWrite link body) :
    o.KeepsPrices (taken i s).1 := by
  have reads {t : State} (same : t = s) : o.KeepsPrices t := same ▸ h
  cases i with
  | load link body => exact Body.take_keeps h fun f => h.takeLoad _ f
  | advance link body => exact Body.take_keeps h fun f => h.takeAdvance _ f
  | query link body => exact Body.take_keeps h fun _ => State.gate_keeps h h
  | endRun link body => exact Body.take_keeps h fun _ => State.gate_keeps h (h.endRun _)
  | delivered link body => exact Body.take_keeps h fun seq => State.gate_keeps h (h.delivered _ _)
  | jam link body => exact Body.take_keeps h fun f => State.gate_keeps h (h.jam _ _ _)
  | clear link body => exact Body.take_keeps h fun _ => State.gate_keeps h (h.clear _)
  | endSession link body => exact Body.take_keeps h fun _ => State.gate_keeps h (h.endSession _)
  | authNotice link body => exact Body.take_keeps h fun f => h.takeAuthNotice f
  | sessionQuery link body => exact reads (Body.take_reads (takeSessionQuery_state · s))
  | poll link body => exact reads (Body.take_reads (takePoll_state · s))
  | captureResult link body => exact Body.take_keeps h fun f => h.takeCaptureResult f
  | acctCreate link body => exact Body.take_keeps h fun f => h.takeAcctCreate f
  | acctUpdate link body => exact Body.take_keeps h fun f => h.takeAcctUpdate f
  | acctRead link body => exact reads (Body.take_reads (takeAcctRead_state · s))
  | acctNext link body => exact reads (Body.take_reads (takeAcctNext_state · s))
  | acctDelete link body => exact Body.take_keeps h fun n => h.takeAcctDelete n
  | priceWrite link body => exact absurd rfl (other link body)
  | priceRead link body => exact reads (Body.take_reads (takePriceRead_state · s))
  | priceSwap link body => exact Body.take_keeps h fun x => h.takePriceSwap x
  | runAbort link body => exact Body.take_keeps h fun x => h.takeRunAbort x
  | captureAbandon link body => exact Body.take_keeps h fun f => h.takeCaptureAbandon f
  | referralFetch link body => exact Body.take_keeps h fun u => h.takeReferralFetch u
  | referralReply link body => exact Body.take_keeps h fun f => h.takeReferralReply f
  | logRead link body => exact reads (Body.take_reads (takeLogRead_state · s))
  | logRelease link body => exact Body.take_keeps h fun seq => h.takeLogRelease seq
  | meterRead link body => exact reads (Body.take_reads (takeMeterRead_state · s))
  | linkStats link body => exact Body.take_keeps h fun f => h.takeLinkStats f
  | stationSetNone link body => exact Body.take_keeps h fun f => h.takeStationSetNone f
  | stationSetEnable link body => exact Body.take_keeps h fun f => h.takeAction f h.enable
  | stationSetDisable link body => exact Body.take_keeps h fun f => h.takeAction f h.disable
  | stationSetHold link body => exact Body.take_keeps h fun f => h.takeAction f h.hold
  | stationSetRelease link body => exact Body.take_keeps h fun f => h.takeAction f h.release
  | stationSetOff link body => exact Body.take_keeps h fun f => h.takeAction f h.turnOff
  | stationRead link body => exact reads (Body.take_reads (takeStationRead_state · s))
  | attnExchange link body => exact Body.take_keeps h fun _ => h.of_same rfl rfl rfl
  | setParam link body => exact Body.take_keeps h fun f => h.takeSetParam f
  | getParam link body => exact reads (Body.take_reads (takeGetParam_state · s))
  | teardown link body => exact Body.take_keeps h fun u => h.takeTeardown u
  | warmReset link body => exact Body.take_keeps h fun u => h.takeWarmReset u
  | captureHead link body => exact reads (Body.take_reads fun _ => rfl)
  | referralList link body => exact reads (Body.take_reads fun _ => rfl)
  | logStatus link body => exact reads (Body.take_reads fun _ => rfl)
  | identify link body => exact reads (Body.take_reads fun _ => rfl)
  | _ => exact h

/-! ### Ports and events -/

theorem KeepsPrices_port (o : State) : PortKeeps o.KeepsPrices where
  frame := fun _ _ h => h.of_same (by simp) (by simp) (by simp)
  access := fun _ _ _ h => h.of_same (by simp) (by simp) (by simp)
  format := fun _ _ h => h.of_same (by simp) (by simp) (by simp)
  counted := fun _ _ h => h.of_same (by simp) (by simp) (by simp)
  discard := fun _ _ h => h.of_same (by simp) (by simp) (by simp)
  receiver := fun _ _ _ h => h.of_same (by simp) (by simp) (by simp)
  byte := fun _ _ h => by
    unfold State.clockByte
    repeat' split
    all_goals first | exact h | exact h.of_same rfl rfl rfl
  answered := fun _ _ _ h => h.of_same (by simp) (by simp) (by simp)

section Events
variable {o s : State} (h : o.KeepsPrices s)
include h

theorem State.KeepsPrices.lineQuiet (link : Link) : o.KeepsPrices (s.lineQuiet link) := by
  unfold State.lineQuiet
  split
  · exact h
  · exact (KeepsPrices_port o).discard _ _ ((KeepsPrices_port o).receiver _ _ _ h)
  · exact (KeepsPrices_port o).receiver _ _ _ h

theorem State.KeepsPrices.runIdleExpiry (st : Station) : o.KeepsPrices (onRunIdleTimerExpiry st s) := by
  unfold onRunIdleTimerExpiry
  repeat' split
  all_goals first | exact h | exact h.closeJob ..

theorem State.KeepsPrices.jamExpiry (st : Station) : o.KeepsPrices (onJamTimerExpiry st s) := by
  unfold onJamTimerExpiry
  split
  · exact h
  · rename_i j _
    have closed : o.KeepsPrices (s.closeJob st j .jamTimeout) := h.closeJob st j .jamTimeout
    split
    · exact closed.of_same rfl rfl rfl
    · exact h

theorem State.KeepsPrices.lostExpiry (st : Station) : o.KeepsPrices (onLostTimerExpiry st s) := by
  unfold onLostTimerExpiry
  repeat' split
  all_goals first | exact h | exact h.closeJob .. | exact h.returnJob ..

theorem State.KeepsPrices.silenceExpiry (st : Station) : o.KeepsPrices (onSilenceTimerExpiry st s) := by
  unfold onSilenceTimerExpiry
  split
  · exact h.of_same rfl rfl rfl
  · exact h

theorem State.KeepsPrices.cardIdleExpiry (st : Station) : o.KeepsPrices (onCardIdleTimerExpiry st s) := by
  unfold onCardIdleTimerExpiry
  repeat' split
  all_goals first | exact h | exact h.leaveOpen ..

theorem State.KeepsPrices.stallExpiry : o.KeepsPrices (onCaptureStallTimingExpiry s) := by
  unfold onCaptureStallTimingExpiry
  split
  · exact h.of_same rfl rfl rfl
  · exact h

theorem State.KeepsPrices.referralTimeout (id : Nat) : o.KeepsPrices (onReferralTimeout id s) := by
  have removed : o.KeepsPrices (s.removeReferral id) := h.of_same rfl rfl rfl
  unfold onReferralTimeout State.timeOut
  repeat' split
  all_goals first | exact h | exact removed | exact removed.returnJob ..

end Events

/-! ### Every command completes -/

/-- A PRICE_WRITE changes a bank, and no command waiting. -/
theorem takePriceWrite_pending (f : PriceWriteFields) (s : State) : (takePriceWrite f s).1.pending = s.pending := by
  unfold takePriceWrite
  repeat' split
  all_goals rfl

theorem taken_pending (i : Instr) (s : State) : (taken i s).1.pending = s.pending := by
  by_cases write : ∃ link body, i = .priceWrite link body
  · obtain ⟨link, body, rfl⟩ := write
    exact Body.take_keeps (P := fun t => t.pending = s.pending) rfl fun f => takePriceWrite_pending f s
  · exact ((State.KeepsPrices.refl s).taken fun link body is => write ⟨link, body, is⟩).queue

/-- Ports and their responses leave the commands waiting. -/
theorem pending_port (waiting : List Instr) : PortKeeps (fun t => t.pending = waiting) where
  frame := fun s link h => ((KeepsPrices_port s).frame s link (.refl s)).queue.trans h
  access := fun s link code h => ((KeepsPrices_port s).access s link code (.refl s)).queue.trans h
  format := fun s link h => ((KeepsPrices_port s).format s link (.refl s)).queue.trans h
  counted := fun s link h => ((KeepsPrices_port s).counted s link (.refl s)).queue.trans h
  discard := fun s link h => ((KeepsPrices_port s).discard s link (.refl s)).queue.trans h
  receiver := fun s link r h => ((KeepsPrices_port s).receiver s link r (.refl s)).queue.trans h
  byte := fun s x h => ((KeepsPrices_port s).byte s x (.refl s)).queue.trans h
  answered := fun s link r h => ((KeepsPrices_port s).answered s link r (.refl s)).queue.trans h

/-- Events leave the commands waiting, the resets too (log 18). -/
theorem pending_events (waiting : List Instr) : EventsKeep (fun t => t.pending = waiting) where
  quiet := fun s link h => ((State.KeepsPrices.refl s).lineQuiet link).queue.trans h
  unsent := fun _ h => h
  dropped := fun _ h => h
  reset := fun _ _ h => h
  tick := fun _ h => h
  runIdle := fun st s h => ((State.KeepsPrices.refl s).runIdleExpiry st).queue.trans h
  jam := fun st s h => ((State.KeepsPrices.refl s).jamExpiry st).queue.trans h
  lost := fun st s h => ((State.KeepsPrices.refl s).lostExpiry st).queue.trans h
  silence := fun st s h => ((State.KeepsPrices.refl s).silenceExpiry st).queue.trans h
  cardIdle := fun st s h => ((State.KeepsPrices.refl s).cardIdleExpiry st).queue.trans h
  referral := fun id s h => ((State.KeepsPrices.refl s).referralTimeout id).queue.trans h
  stall := fun s h => ((State.KeepsPrices.refl s).stallExpiry).queue.trans h

/-- Settles O3: the commands waiting stay through every port, block and event. -/
theorem everyCommandCompletes : Obligations.EveryCommandCompletes := by
  unfold Obligations.EveryCommandCompletes
  intro c s
  exact exec_keeps (P := fun t => t.pending = s.pending) (pending_port s.pending)
    (fun i t h => (taken_pending i t).trans h) (pending_events s.pending) c s rfl

/-! ### A bank in use keeps its prices (R26) -/

/-- A PRICE_WRITE that is taken writes a bank that is neither active nor in use. -/
theorem takePriceWrite_prices {s : State} {name : BankName} (f : PriceWriteFields) (inUse : s.writable name = false) :
    ((takePriceWrite f s).1.bank name).tiers = (s.bank name).tiers := by
  unfold takePriceWrite
  split
  case h_2 => rfl
  case h_1 written tier item _ _ _ =>
    split
    case isTrue => rfl
    case isFalse free =>
      have other : written ≠ name := fun is => free (is ▸ inUse)
      cases written <;> cases name <;> first | rfl | exact absurd rfl other

theorem State.writable_not {s : State} {name : BankName} (inUse : s.active = some name ∨ (s.bank name).users ≠ 0) :
    s.writable name = false := by
  rcases inUse with active | users
  · simp [State.writable, active]
  · simp [State.writable, users]

/-- The port of a request leaves the prices, and its block keeps those of a bank in use. -/
theorem exec_request_prices {i : Instr} {h : Header} {s t : State} {name : BankName} (header : i.header = some h)
    (outcome : exec i s = .next t) (inUse : s.writable name = false) : (t.bank name).tiers = (s.bank name).tiers := by
  obtain ⟨α, body, take, at_⟩ := Instr.requestAt header
  have port := KeepsPrices_port s
  have self := State.KeepsPrices.refl s
  have handed : s.KeepsPrices (s.handOn h.link) := port.counted _ _ (port.frame _ _ self)
  cases (at_.request s).symm.trans outcome
  rcases State.request_cases s h.link h.code h.kind body take with same | access | format | ⟨fields, is, _, answered⟩
  · rw [same]
  · rw [access]
    exact (port.access _ _ _ (port.frame _ _ self)).bank name
  · rw [format]
    exact (port.format _ _ (port.frame _ _ self)).bank name
  · rw [answered, ← at_.block fields _ is]
    refine (((KeepsPrices_port _).answered _ _ _ (.refl _)).bank name).trans ?_
    by_cases write : ∃ link body, i = .priceWrite link body
    · obtain ⟨link, body', rfl⟩ := write
      have still : (s.handOn h.link).writable name = false := by rw [State.writable, State.handOn_active, State.handOn_bank]; exact inUse
      refine Eq.trans ?_ (handed.bank name)
      exact Body.take_keeps (P := fun t => (t.bank name).tiers = ((s.handOn h.link).bank name).tiers) rfl
        fun f => takePriceWrite_prices f still
    · exact (handed.taken fun link body is => write ⟨link, body, is⟩).bank name

/-- Settles O42: a request by its port and its block, and the rows that are no requests one by one. -/
theorem banksInUseAreNeverWritten : Obligations.BanksInUseAreNeverWritten := by
  unfold Obligations.BanksInUseAreNeverWritten
  intro c s t name keeps request outcome inUse
  have self := State.KeepsPrices.refl s
  cases header : c.header with
  | some h => exact exec_request_prices header outcome (State.writable_not inUse)
  | none =>
    cases c with
    | invalidRequestCode link code =>
      cases outcome
      rcases Bool.eq_false_or_eq_true (s.deaf link) with deaf | heard
      · rw [onInvalidRequestCode, if_pos deaf]
      · rw [onInvalidRequestCode, if_neg (by simp [heard])]
        exact ((KeepsPrices_port s).format _ _ ((KeepsPrices_port s).frame _ _ self)).bank name
    | frameDiscarded link heard => cases request
    | receiveGapTimeout link => cases outcome; exact (self.lineQuiet link).bank name
    | selectReleased => cases outcome; exact (State.KeepsPrices.of_same (self.lineQuiet .m) rfl rfl rfl).bank name
    | powerOn => cases keeps
    | resetPin => cases keeps
    | timebaseTick => cases outcome; exact (self.of_same rfl rfl rfl).bank name
    | runIdleTimerExpiry st => cases outcome; exact (self.runIdleExpiry st).bank name
    | jamTimerExpiry st => cases outcome; exact (self.jamExpiry st).bank name
    | lostTimerExpiry st => cases outcome; exact (self.lostExpiry st).bank name
    | silenceTimerExpiry st => cases outcome; exact (self.silenceExpiry st).bank name
    | cardIdleTimerExpiry st => cases outcome; exact (self.cardIdleExpiry st).bank name
    | referralTimeout id => cases outcome; exact (self.referralTimeout id).bank name
    | captureStallTimingExpiry => cases outcome; exact self.stallExpiry.bank name
    | responseClockedOut => cases outcome; exact (self.of_same rfl rfl rfl).bank name
    | _ => cases header

end Sys2Proof.Machine

/-! PROOF. The receivers (R151 to R154, R157): one rule for each row of the receiver's table, a whole frame collected byte by byte, and the
M-link's waiting response under the bytes clocked in. -/

namespace Sys2Proof.Machine

/-! ### One byte heard -/

/-- The one byte of a FRAME_DISCARDED is heard by its link's receiver. -/
theorem exec_heard_one (link : Link) (x : LineByte) (s : State) :
    exec (.frameDiscarded link [x]) s = .next (s.hearByte link x) := rfl

/-- No byte clocked in moves a response where none waits (R151). -/
theorem State.clockByte_idle {s : State} (idle : s.io.mWaiting = none) (x : Byte) : s.clockByte x = s := by
  unfold State.clockByte
  rw [idle]

/-- A byte heard on a link that holds no waiting response moves the receiver, and then brings about what the receiver makes of it. -/
theorem State.hearByte_idle {link : Link} {s : State} (idle : link = .m → s.io.mWaiting = none) (x : LineByte) :
    s.hearByte link x =
      (s.setReceiver link (receiveByte link (s.port link).receiver x).1).received link
        (receiveByte link (s.port link).receiver x).2 := by
  have still : (if link = .m then s.clockByte x.value else s) = s := by
    split
    case isTrue onM => exact State.clockByte_idle (idle onM) x.value
    case isFalse => rfl
  unfold State.hearByte
  rw [still]

/-- The receiver that stands already is set again. -/
theorem State.setReceiver_same {s : State} {link : Link} {r : Receiver} (stands : (s.port link).receiver = r) :
    s.setReceiver link r = s := by
  have same : { s.port link with receiver := r } = s.port link := by rw [← stands]
  rw [State.setReceiver, same, State.setPort_port]

theorem State.setReceiver_setReceiver (s : State) (link : Link) (r q : Receiver) :
    (s.setReceiver link r).setReceiver link q = s.setReceiver link q := by
  simp only [State.setReceiver, State.port_setPort, State.setPort_setPort]

theorem State.setReceiver_receiver (s : State) (link : Link) (r : Receiver) : ((s.setReceiver link r).port link).receiver = r := by
  rw [State.setReceiver, State.port_setPort]

/-- A discard moves the receiver, counts, disarms, and latches DISCARDS on an armed link (R157). -/
theorem State.noteDiscard_moved (s : State) (link : Link) (r : Receiver) :
    (s.setReceiver link r).noteDiscard link =
      { s.setPort link
          { s.port link with receiver := r, discarded := min 65535 ((s.port link).discarded + 1), armed := false } with
        latched := if (s.port link).armed = true then s.latched ||| 0x00000800#32 else s.latched } := by
  simp only [State.noteDiscard, State.latchIf, State.setReceiver, State.port_setPort, State.setPort_setPort, countUp_eq]
  rfl

/-! ### The check (R152) -/

/-- The two check bytes of a frame are those of a check value, high byte first. -/
theorem check_iff (high low : Byte) (c : Half) : [high, low] = be2 c.toNat ↔ high ++ low = c := by
  constructor
  case mp =>
    intro same
    have read : half (BitVec.ofNat 8 (c.toNat / 256)) (BitVec.ofNat 8 c.toNat) = c := (half_be2 c).2
    injection same with first rest
    injection rest with second
    rw [← read, ← first, ← second]
    rfl
  case mpr =>
    rintro rfl
    have value : (high ++ low : Half).toNat = high.toNat * 256 + low.toNat := by
      rw [BitVec.toNat_append, ← Nat.shiftLeft_add_eq_or_of_lt low.isLt, Nat.shiftLeft_eq]
    have first : BitVec.ofNat 8 ((high.toNat * 256 + low.toNat) / 256) = high :=
      BitVec.eq_of_toNat_eq (by rw [BitVec.toNat_ofNat]; omega)
    have second : BitVec.ofNat 8 (high.toNat * 256 + low.toNat) = low :=
      BitVec.eq_of_toNat_eq (by rw [BitVec.toNat_ofNat]; omega)
    rw [be2, value, first, second]

/-! ### Collecting a frame (R153) -/

/-- The bytes of a frame after its start byte, before its last: too few to end it, and no oversize length among them. -/
def Unfinished (got : List Byte) : Prop :=
  got.length ≤ 1 ∨ ∃ address length rest, got = address :: length :: rest ∧ length.toNat ≤ 120 ∧ rest.length ≠ length.toNat + 3

theorem collect_unfinished {link : Link} {got : List Byte} (more : Unfinished got) :
    collect link got = (.receive got, .nothing) := by
  rcases more with short | ⟨address, length, rest, rfl, bounded, wrong⟩
  · match got, short with
    | [], _ => rfl
    | [_], _ => rfl
  · have fits : ¬ Config.bodyMax < length.toNat := Nat.not_lt.2 bounded
    simp only [collect, if_neg fits, if_neg wrong]

theorem collect_oversize {link : Link} {address length : Byte} (oversize : 120 < length.toNat) :
    collect link [address, length] = (.skip, .discard) :=
  if_pos oversize

/-- The last check byte ends the frame. -/
theorem collect_whole {link : Link} {address length code : Byte} {body : List Byte} (high low : Byte)
    (stated : length.toNat = body.length) (bounded : body.length ≤ 120) :
    collect link (address :: length :: code :: (body ++ [high]) ++ [low]) =
      (.hunt, testFrame link address length code body [high, low]) := by
  have fits : ¬ Config.bodyMax < length.toNat := by rw [stated]; exact Nat.not_lt.2 bounded
  have whole : (code :: (body ++ [high, low])).length = length.toNat + 3 := by simp [stated]
  have shape : address :: length :: code :: (body ++ [high]) ++ [low] = address :: length :: code :: (body ++ [high, low]) := by simp
  rw [shape]
  simp only [collect, if_neg fits, if_pos whole]
  rw [stated, List.take_left, List.drop_left]

/-- A byte that is no start byte at a hunting receiver. -/
theorem receiveByte_noStart {link : Link} {x : LineByte} (noStart : ¬ (x.value = startByte ∧ faultyOn x link = false)) :
    receiveByte link .hunt x = if link = .m then (.hunt, .nothing) else (.skip, .discard) :=
  if_neg noStart

theorem receiveByte_collect {link : Link} {x : LineByte} (got : List Byte) (clean : x.faulty = false) :
    receiveByte link (.receive got) x = collect link (got ++ [x.value]) := by
  simp [receiveByte, faultyOn, clean]

/-- A byte that neither ends the frame nor makes it oversize joins the bytes collected. -/
theorem State.hearByte_collects {link : Link} {s : State} {got : List Byte} {x : LineByte}
    (idle : link = .m → s.io.mWaiting = none) (collecting : (s.port link).receiver = .receive got) (clean : x.faulty = false)
    (more : Unfinished (got ++ [x.value])) : s.hearByte link x = s.setReceiver link (.receive (got ++ [x.value])) := by
  rw [State.hearByte_idle idle, collecting, receiveByte_collect got clean, collect_unfinished more]
  rfl

/-- The last check byte of a valid frame is the arrival of its request (R156; log 1). -/
theorem State.hearByte_request {link : Link} {s : State} {length code : Byte} {body : List Byte} {high : Byte} {x : LineByte}
    (idle : link = .m → s.io.mWaiting = none)
    (collecting : (s.port link).receiver = .receive (link.address :: length :: code :: (body ++ [high])))
    (stated : length.toNat = body.length) (bounded : body.length ≤ 120) (clean : x.faulty = false)
    (checked : high ++ x.value = crc16 (link.address :: length :: code :: body)) :
    Host.Outcome.next (s.hearByte link x) = exec (decodeRequest link code body) s := by
  have heard : s.deaf link = false := by rw [State.deaf, collecting]; rfl
  have valid : testFrame link link.address length code body [high, x.value] = .frame code body :=
    if_pos ⟨(check_iff _ _ _).2 checked, rfl⟩
  rw [takeRequest_hunting code body heard, State.hearByte_idle idle, collecting, receiveByte_collect _ clean,
    collect_whole high x.value stated bounded, valid]
  rfl

/-! ### The receiver's table -/

theorem thrown_heard {link : Link} {s : State} {x : LineByte} {r : Receiver} (idle : link = .m → s.io.mWaiting = none)
    (row : receiveByte link (s.port link).receiver x = (r, .discard)) :
    exec (.frameDiscarded link [x]) s = .next
      { s.setPort link
          { s.port link with receiver := r, discarded := min 65535 ((s.port link).discarded + 1), armed := false } with
        latched := if (s.port link).armed = true then s.latched ||| 0x00000800#32 else s.latched } := by
  rw [exec_heard_one, State.hearByte_idle idle, row, ← State.noteDiscard_moved]
  rfl

theorem moved_heard {link : Link} {s : State} {x : LineByte} {r : Receiver} (idle : link = .m → s.io.mWaiting = none)
    (row : receiveByte link (s.port link).receiver x = (r, .nothing)) :
    exec (.frameDiscarded link [x]) s = .next (s.setReceiver link r) := by
  rw [exec_heard_one, State.hearByte_idle idle, row]
  rfl

/-- Settles O10: the receiver's table row by row, and the bytes of one FRAME_DISCARDED one after another. -/
theorem receiverDiscards : Obligations.ReceiverDiscards := by
  unfold Obligations.ReceiverDiscards
  refine ⟨?table, fun _ _ => rfl, fun link x rest s t one => ?oneByOne⟩
  case oneByOne =>
    cases one
    rfl
  case table =>
    intro link x s line moved thrown after
    have idle : link = .m → s.io.mWaiting = none := fun onM => (line onM).1
    refine ⟨fun hunting start clean => ?start, fun hunting other uart => ?noise, fun hunting other onM => ?filler,
      fun skipping => ?skip, fun got collecting fault => ?fault, fun address collecting clean oversize => ?oversize,
      fun address length code body high collecting stated bounded clean wrong => ?wrong,
      fun length code body high collecting stated bounded clean checked => ?request,
      fun got collecting clean more => ?collects⟩
    case start =>
      refine moved_heard idle ?_
      rw [hunting]
      exact if_pos ⟨start, by simp [faultyOn, clean]⟩
    case noise =>
      refine thrown_heard idle ?_
      have noStart : ¬ (x.value = startByte ∧ faultyOn x link = false) := by
        rintro ⟨value, good⟩
        rcases other with differs | fault
        · exact differs value
        · simp [faultyOn, fault, uart] at good
      rw [hunting, receiveByte_noStart noStart, if_neg uart]
    case filler =>
      have stays := moved_heard (x := x) (r := .hunt) idle (by
        rw [hunting, receiveByte_noStart fun start => other start.1, if_pos onM])
      rwa [State.setReceiver_same hunting] at stays
    case skip =>
      have stays := moved_heard (x := x) (r := .skip) idle (by rw [skipping]; rfl)
      rwa [State.setReceiver_same skipping] at stays
    case fault =>
      have uart : link ≠ .m := fun onM => absurd ((line onM).2.symm.trans fault) Bool.false_ne_true
      refine thrown_heard idle ?_
      rw [collecting]
      exact if_pos (by simp [faultyOn, fault, uart])
    case oversize =>
      refine thrown_heard idle ?_
      rw [collecting, receiveByte_collect _ clean]
      exact collect_oversize oversize
    case wrong =>
      refine thrown_heard idle ?_
      have invalid : testFrame link address length code body [high, x.value] = .discard := by
        refine if_neg fun valid => ?_
        rcases wrong with stranger | unchecked
        · exact stranger valid.2
        · exact unchecked ((check_iff _ _ _).1 valid.1)
      rw [collecting, receiveByte_collect _ clean, collect_whole high x.value stated bounded, invalid]
    case request => exact State.hearByte_request idle collecting stated bounded clean checked
    case collects =>
      have unfinished : Unfinished (got ++ [x.value]) := by
        rcases more with rfl | ⟨address, rfl, small⟩ | ⟨address, length, rest, rfl, small, wrong⟩
        · exact .inl (Nat.le_refl 1)
        · exact .inr ⟨address, x.value, [], rfl, small, by simp⟩
        · exact .inr ⟨address, length, rest ++ [x.value], rfl, small, by simpa using wrong⟩
      exact congrArg Host.Outcome.next (State.hearByte_collects idle collecting clean unfinished)

/-! ### A whole frame heard -/

/-- A line byte with no fault. -/
def cleanByte (v : Byte) : LineByte := ⟨v, false⟩

/-- The bytes of a frame up to its last but one are collected. -/
theorem onFrameDiscarded_collects {link : Link} (bytes : List Byte) :
    ∀ {s : State} {got : List Byte}, (link = .m → s.io.mWaiting = none) → (s.port link).receiver = .receive got →
      (∀ p q, bytes = p ++ q → p ≠ [] → Unfinished (got ++ p)) →
      onFrameDiscarded link (bytes.map cleanByte) s = s.setReceiver link (.receive (got ++ bytes)) := by
  induction bytes with
  | nil =>
    intro s got _ collecting _
    rw [List.append_nil, State.setReceiver_same collecting]
    rfl
  | cons v rest ih =>
    intro s got idle collecting more
    have first : s.hearByte link (cleanByte v) = s.setReceiver link (.receive (got ++ [v])) :=
      State.hearByte_collects idle collecting rfl (more [v] rest rfl (List.cons_ne_nil _ _))
    have step : onFrameDiscarded link ((v :: rest).map cleanByte) s =
        onFrameDiscarded link (rest.map cleanByte) (s.setReceiver link (.receive (got ++ [v]))) := by
      rw [← first]
      rfl
    have stillIdle : link = .m → (s.setReceiver link (.receive (got ++ [v]))).io.mWaiting = none := by
      rintro rfl
      exact idle rfl
    rw [step, ih stillIdle (State.setReceiver_receiver _ _ _) fun p q parts some_ => ?_, State.setReceiver_setReceiver,
      List.append_assoc, List.singleton_append]
    rw [List.append_assoc, List.singleton_append]
    exact more (v :: p) q (by rw [parts]; rfl) (List.cons_ne_nil _ _)

/-- A frame short of its last byte is unfinished at every byte. -/
theorem unfinished_prefix {address length code high : Byte} {body p q : List Byte} (stated : length.toNat = body.length)
    (bounded : body.length ≤ 120) (parts : address :: length :: code :: (body ++ [high]) = p ++ q) : Unfinished p := by
  match p with
  | [] => exact .inl (Nat.zero_le 1)
  | [_] => exact .inl (Nat.le_refl 1)
  | a :: l :: rest =>
    simp only [List.cons_append, List.cons.injEq] at parts
    obtain ⟨rfl, rfl, tail⟩ := parts
    have count := congrArg List.length tail
    simp only [List.length_cons, List.length_append, List.length_nil] at count
    exact .inr ⟨address, length, rest, rfl, by omega, by omega⟩

/-- What a start byte leaves on a hunting receiver: the waiting response of the M-link is gone (R151). -/
theorem State.hearByte_start {link : Link} {s : State} (hunting : (s.port link).receiver = .hunt) :
    ∃ u : State, s.hearByte link (cleanByte startByte) = u.setReceiver link (.receive []) ∧
      (link = .m → u.io.mWaiting = none) ∧ u.validFrame link = s.validFrame link := by
  have start {u : State} (idle : link = .m → u.io.mWaiting = none) (hunts : (u.port link).receiver = .hunt) :
      u.hearByte link (cleanByte startByte) = u.setReceiver link (.receive []) := by
    rw [State.hearByte_idle idle, hunts]
    rfl
  by_cases waiting : link = .m ∧ s.io.mWaiting ≠ none
  · obtain ⟨rfl, some_⟩ := waiting
    obtain ⟨r, is⟩ := Option.ne_none_iff_exists'.1 some_
    have dropped : s.clockByte startByte = s.dropResponse := by
      unfold State.clockByte
      rw [is]
      rfl
    have same : s.hearByte .m (cleanByte startByte) = s.dropResponse.hearByte .m (cleanByte startByte) := by
      unfold State.hearByte
      simp only [if_true]
      rw [State.clockByte_idle (s := s.dropResponse) rfl, show (cleanByte startByte).value = startByte from rfl, dropped]
    exact ⟨s.dropResponse, same.trans (start (fun _ => rfl) hunting), fun _ => rfl, rfl⟩
  · have idle : link = .m → s.io.mWaiting = none := fun onM => not_not.1 fun some_ => waiting ⟨onM, some_⟩
    exact ⟨s, start idle hunting, idle, rfl⟩

theorem State.validFrame_setReceiver (s : State) (link : Link) (r : Receiver) :
    (s.setReceiver link r).validFrame link = s.validFrame link := by
  rw [← State.validFrame_hunting, State.setReceiver_setReceiver, State.validFrame_hunting]

/-- A request at its port depends on the state only through its receiver not skipping and the valid frame taken. -/
theorem State.request_same {α : Type} {s u : State} {link : Link} (code : Byte) (kind : LinkKind) (body : Body α)
    (take : α → State → Taken) (heardS : s.deaf link = false) (heardU : u.deaf link = false)
    (frame : u.validFrame link = s.validFrame link) : u.request link code kind body take = s.request link code kind body take := by
  simp only [State.request, heardS, heardU, frame, State.handOn]
  cases body <;> rfl

theorem exec_same {i : Instr} {f : RequestFrame} {s u : State} (spelled : encodeRequest i = some f)
    (heardS : s.deaf f.link = false) (heardU : u.deaf f.link = false) (frame : u.validFrame f.link = s.validFrame f.link) :
    exec i u = exec i s := by
  cases header : i.header with
  | some h =>
    obtain ⟨α, body, take, at_⟩ := Instr.requestAt header
    obtain ⟨link, _⟩ := encodeRequest_header header spelled
    rw [link] at heardS heardU frame
    rw [at_.request u, at_.request s, State.request_same _ _ _ _ heardS heardU frame]
  | none =>
    cases i with
    | invalidRequestCode link code =>
      cases spelled
      have refused {t : State} (heard : t.deaf link = false) :
          exec (.invalidRequestCode link code) t = .next ((t.validFrame link).refuseFormat link) :=
        congrArg Host.Outcome.next (if_neg (by simp [heard]))
      rw [refused heardU, refused heardS, frame]
    | _ => first | cases spelled | cases header

/-- Settles O9: the start byte, the bytes collected, and the last check byte, which is the arrival of the request. -/
theorem heardFrameIsTheRequest : Obligations.HeardFrameIsTheRequest := by
  unfold Obligations.HeardFrameIsTheRequest
  intro i f s wf spelled hunting
  obtain ⟨decoded, bounded⟩ := decodeOfEncodeIsTheCommand i f wf spelled
  obtain ⟨u, started, idle, frame⟩ := State.hearByte_start hunting
  let length : Byte := BitVec.ofNat 8 f.body.length
  let check : Half := crc16 (f.link.address :: length :: f.code :: f.body)
  let high : Byte := check.extractLsb' 8 8
  let low : Byte := check.extractLsb' 0 8
  let inner : List Byte := f.link.address :: length :: f.code :: (f.body ++ [high])
  have stated : length.toNat = f.body.length := by
    rw [BitVec.toNat_ofNat]
    omega
  have bytes : f.bytes = startByte :: (inner ++ [low]) := by
    rw [RequestFrame.bytes, frameBytes_eq]
    simp [inner, length, high, low, check, startByte]
  let v : State := u.setReceiver f.link (.receive [])
  have idleV : f.link = .m → v.io.mWaiting = none := fun onM => by
    have same : v.io.mWaiting = u.io.mWaiting := by simp only [v, onM]; rfl
    rw [same, idle onM]
  have collected : onFrameDiscarded f.link (inner.map cleanByte) v = v.setReceiver f.link (.receive inner) :=
    onFrameDiscarded_collects inner idleV (State.setReceiver_receiver _ _ _)
      fun p q parts _ => unfinished_prefix stated bounded parts
  let w : State := v.setReceiver f.link (.receive inner)
  have idleW : f.link = .m → w.io.mWaiting = none := fun onM => by
    have same : w.io.mWaiting = v.io.mWaiting := by simp only [w, onM]; rfl
    rw [same, idleV onM]
  have heardW : w.deaf f.link = false := by
    rw [State.deaf, State.setReceiver_receiver]
    rfl
  have heardS : s.deaf f.link = false := by
    rw [State.deaf, hunting]
    rfl
  have frameW : w.validFrame f.link = s.validFrame f.link := by
    rw [State.validFrame_setReceiver, State.validFrame_setReceiver, frame]
  have checked : high ++ low = check := (check_iff high low check).1 (be2_half check).symm
  calc exec (.frameDiscarded f.link (f.bytes.map cleanByte)) s
      = .next (onFrameDiscarded f.link (inner.map cleanByte ++ [cleanByte low]) (s.hearByte f.link (cleanByte startByte))) := by
        rw [bytes, List.map_cons, List.map_append]
        rfl
    _ = .next (w.hearByte f.link (cleanByte low)) := by
        rw [started, onFrameDiscarded, List.foldl_append]
        exact congrArg (fun t : State => Host.Outcome.next (t.hearByte f.link (cleanByte low))) collected
    _ = exec (decodeRequest f.link f.code f.body) w :=
        State.hearByte_request idleW (State.setReceiver_receiver _ _ _) stated bounded rfl checked
    _ = exec i w := by rw [decoded]
    _ = exec i s := exec_same spelled heardS heardW frameW

/-! ### The waiting response (R151) -/

theorem State.ready_iff (s : State) : s.ready = true ↔ s.io.mWaiting ≠ none :=
  Option.isSome_iff_ne_none

section Waiting
variable {s : State} {r : Response} (waiting : s.io.mWaiting = some r)
include waiting

/-- The byte clocked out is the next of the response's frame. -/
theorem State.dataOut_next (left : s.io.mSent < (r.bytes .m).length) : (r.bytes .m)[s.io.mSent]? = some s.dataOut := by
  rw [State.dataOut_waiting waiting, List.getD_eq_getElem _ _ left, List.getElem?_eq_getElem left]

theorem State.clockByte_goesOn {x : Byte} (filler : x ≠ startByte) (left : s.io.mSent + 1 < (r.bytes .m).length) :
    s.clockByte x = { s with io := { s.io with mSent := s.io.mSent + 1 } } := by
  unfold State.clockByte
  rw [waiting]
  simp only [if_neg filler, if_neg (Nat.not_le.2 left)]

theorem State.clockByte_ends {x : Byte} (filler : x ≠ startByte) (last : (r.bytes .m).length ≤ s.io.mSent + 1) :
    s.clockByte x = s.dropResponse := by
  unfold State.clockByte
  rw [waiting]
  simp only [if_neg filler, if_pos last]

theorem State.clockByte_start : s.clockByte startByte = s.dropResponse := by
  unfold State.clockByte
  rw [waiting]
  rfl

/-- A start byte under a waiting response discards it and begins a request. -/
theorem State.hearByte_startWaiting (hunting : s.io.mPort.receiver = .hunt) :
    s.hearByte .m ⟨startByte, false⟩ =
      { s with io := { s.io with mWaiting := none, mSent := 0, mPort := { s.io.mPort with receiver := .receive [] } } } := by
  have hunts : (s.dropResponse.port .m).receiver = .hunt := hunting
  unfold State.hearByte
  simp only [if_true]
  rw [State.clockByte_start waiting, hunts]
  rfl

end Waiting

/-- Fillers clock out what is left of the waiting response, and the last of them ends it. -/
theorem clockedOut_fillers (fillers : List Byte) :
    ∀ {s : State} {r : Response}, s.io.mWaiting = some r → s.io.mPort.receiver = .hunt → fillers ≠ [] →
      fillers.length + s.io.mSent = (r.bytes .m).length → (∀ x ∈ fillers, x ≠ startByte) →
      s.clockedOut (fillers.map cleanByte) = (r.bytes .m).drop s.io.mSent ∧
        onFrameDiscarded .m (fillers.map cleanByte) s = s.dropResponse := by
  induction fillers with
  | nil => exact fun _ _ some_ => absurd rfl some_
  | cons x rest ih =>
    intro s r waiting hunting _ count fillers
    have filler : x ≠ startByte := fillers x List.mem_cons_self
    have heard : s.hearByte .m (cleanByte x) = s.clockByte x := State.hearByte_filler waiting hunting filler
    simp only [List.length_cons] at count
    have left : s.io.mSent < (r.bytes .m).length := by omega
    have out : s.dataOut = (r.bytes .m)[s.io.mSent] := by rw [State.dataOut_waiting waiting, List.getD_eq_getElem _ _ left]
    have clocked : s.clockedOut ((x :: rest).map cleanByte) = s.dataOut :: (s.clockByte x).clockedOut (rest.map cleanByte) := by
      rw [← heard]
      rfl
    have folded : onFrameDiscarded .m ((x :: rest).map cleanByte) s = onFrameDiscarded .m (rest.map cleanByte) (s.clockByte x) := by
      rw [← heard]
      rfl
    rw [clocked, folded, out, List.drop_eq_getElem_cons left]
    by_cases last : rest = []
    · subst last
      have whole : (r.bytes .m).length = s.io.mSent + 1 := by simpa [Nat.add_comm] using count.symm
      rw [State.clockByte_ends waiting filler (Nat.le_of_eq whole), ← whole, List.drop_length]
      exact ⟨rfl, rfl⟩
    · have more : s.io.mSent + 1 < (r.bytes .m).length := by
        have := List.length_pos_iff.2 last
        omega
      have goesOn := State.clockByte_goesOn waiting filler more
      have counted : rest.length + (s.io.mSent + 1) = (r.bytes .m).length := by omega
      obtain ⟨bytes, gone⟩ := ih (s := { s with io := { s.io with mSent := s.io.mSent + 1 } }) waiting hunting last counted
        fun y among => fillers y (List.mem_cons_of_mem x among)
      rw [goesOn, bytes, gone]
      exact ⟨rfl, rfl⟩

/-! ### Quiet lines (R153) -/

theorem State.lineQuiet_hunt {s : State} {link : Link} (hunting : (s.port link).receiver = .hunt) : s.lineQuiet link = s := by
  unfold State.lineQuiet
  rw [hunting]

theorem State.lineQuiet_receive {s : State} {link : Link} {got : List Byte} (collecting : (s.port link).receiver = .receive got) :
    s.lineQuiet link = (s.setReceiver link .hunt).noteDiscard link := by
  unfold State.lineQuiet
  rw [collecting]

theorem State.lineQuiet_skip {s : State} {link : Link} (skipping : (s.port link).receiver = .skip) :
    s.lineQuiet link = s.setReceiver link .hunt := by
  unfold State.lineQuiet
  rw [skipping]

/-- A gap makes its link's line quiet, and select released that of the M-link, whose response begins again. -/
theorem exec_quiet {s t : State} {link : Link} (quiet : s.lineQuiet link = t) :
    exec (.receiveGapTimeout link) s = .next t ∧
      (link = .m → exec .selectReleased s = .next { t with io := { t.io with mSent := 0 } }) := by
  subst quiet
  refine ⟨rfl, ?_⟩
  rintro rfl
  rfl

/-- Settles O11: the data-out line byte by byte, the ways a waiting response ends, and what a quiet line does to a receiver. -/
theorem waitingResponseAndQuietLine : Obligations.WaitingResponseAndQuietLine := by
  unfold Obligations.WaitingResponseAndQuietLine
  refine ⟨fun s => ⟨s.ready_iff, State.dataOut_idle, fun r => State.dataOut_next, rfl, fun x rest t one => ?clocked, rfl⟩,
    fun s r x waiting hunting => ⟨fun filler left => ?goesOn, fun filler last => ?ends, fun start => ?start, ?select⟩,
    fun s r fillers waiting hunting fresh count none_ => ?fillers,
    ?quiet⟩
  case clocked =>
    cases one
    exact s.clockedOut_cons x rest
  case goesOn =>
    rw [exec_heard_one, State.hearByte_filler waiting hunting filler, State.clockByte_goesOn waiting filler left]
  case ends =>
    rw [exec_heard_one, State.hearByte_filler waiting hunting filler, State.clockByte_ends waiting filler last]
    rfl
  case start =>
    subst start
    exact congrArg Host.Outcome.next (State.hearByte_startWaiting waiting hunting)
  case select => exact (exec_quiet (link := .m) (State.lineQuiet_hunt hunting)).2 rfl
  case fillers =>
    have some_ : fillers ≠ [] := by
      rintro rfl
      rw [Response.bytes, frameBytes_eq] at count
      simp at count
    obtain ⟨bytes, gone⟩ := clockedOut_fillers fillers waiting hunting some_ (by rw [fresh, Nat.add_zero, count]) none_
    rw [fresh, List.drop_zero] at bytes
    exact ⟨bytes, congrArg Host.Outcome.next gone⟩
  case quiet =>
    intro link s moved thrown resend
    exact ⟨fun hunting => exec_quiet (State.lineQuiet_hunt hunting),
      fun got collecting => exec_quiet ((State.lineQuiet_receive collecting).trans (s.noteDiscard_moved link .hunt)),
      fun skipping => exec_quiet (State.lineQuiet_skip skipping)⟩

end Sys2Proof.Machine

/-! PROOF. Credit and the account requests (R4, R10, R13 to R19, R21): hold growth, one rule for each branch of what the account table does
with ACCT_CREATE, ACCT_UPDATE, ACCT_READ and ACCT_NEXT, and the four statements assembled from them. -/

namespace Sys2Proof.Machine

/-! ### Hold growth (R10) -/

/-- A shortfall rounded up is the one multiple of the step that is not below it and less than a step above. -/
theorem roundUp_eq {x step g : Nat} (multiple : step ∣ g) (atLeast : x ≤ g) (below : g < x + step) : roundUp x step = g := by
  obtain ⟨k, rfl⟩ := multiple
  have quotient : (x + step - 1) / step = k := by
    refine Nat.div_eq_of_lt_le ?_ ?_
    · rw [Nat.mul_comm]
      omega
    · rw [Nat.succ_mul, Nat.mul_comm]
      omega
  rw [roundUp, quotient, Nat.mul_comm]

section Growth
variable {s : State} {slot : SlotKind} {n : Word} {x : Nat}

theorem State.growthFor_frozen (frozen : s.isFrozen slot n = true) : s.growthFor slot n x = .failed .frozen :=
  if_pos frozen

variable (open_ : s.isFrozen slot n = false)
include open_

/-- A record that is not FROZEN grows by the step, else by the shortfall, else not at all. -/
theorem State.growthFor_open :
    s.growthFor slot n x =
      if (roundUp x s.params.holdStep : Int) ≤ s.available slot n then .grown (roundUp x s.params.holdStep)
      else if (x : Int) ≤ s.available slot n then .grown x
      else .failed .noCredit :=
  if_neg (by simp [open_])

end Growth

/-! ### One record's credit (R4) -/

/-- Finding by a number sees past a change that keeps every number. -/
theorem find_map_keepsNumber {α : Type} (number : α → Word) {g : α → α} (keeps : ∀ x, number (g x) = number x) (m : Word)
    (records : List α) :
    (records.map g).find? (fun x => number x == m) = (records.find? (fun x => number x == m)).map g := by
  rw [List.find?_map]
  congr 2
  exact funext fun x => by rw [Function.comp, keeps]

theorem State.houseRecord_number {s : State} {n : Word} {r : HouseRecord} (found : s.houseRecord n = some r) : r.number = n := by
  have := List.find?_some found
  exact beq_iff_eq.1 this

theorem State.mirrorOf_number {s : State} {n : Word} {m : Mirror} (found : s.mirrorOf n = some m) : m.number = n := by
  have := List.find?_some found
  exact beq_iff_eq.1 this

theorem State.houseRecord_mapCredit (s : State) (n m : Word) (f : Credit → Credit) :
    (s.mapCredit .house n f).houseRecord m =
      (s.houseRecord m).map (fun r => if r.number = n then { r with credit := f r.credit } else r) :=
  find_map_keepsNumber HouseRecord.number (fun r => by split <;> rfl) m s.house

theorem State.mirrorOf_mapCredit (s : State) (n m : Word) (f : Credit → Credit) :
    (s.mapCredit .mirror n f).mirrorOf m =
      (s.mirrorOf m).map (fun x => if x.number = n then { x with credit := f x.credit } else x) :=
  find_map_keepsNumber Mirror.number (fun x => by split <;> rfl) m s.mirrors

theorem State.creditOf_mapCredit_house (s : State) (n m : Word) (f : Credit → Credit) :
    (s.mapCredit .house n f).creditOf .house m =
      if m = n then (s.creditOf .house m).map f else s.creditOf .house m := by
  simp only [State.creditOf, State.houseRecord_mapCredit]
  cases found : s.houseRecord m with
  | none => simp
  | some r =>
    rw [← State.houseRecord_number found]
    by_cases same : r.number = n <;> simp [same]

theorem State.creditOf_mapCredit_mirror (s : State) (n m : Word) (f : Credit → Credit) :
    (s.mapCredit .mirror n f).creditOf .mirror m =
      if m = n then (s.creditOf .mirror m).map f else s.creditOf .mirror m := by
  simp only [State.creditOf, State.mirrorOf_mapCredit]
  cases found : s.mirrorOf m with
  | none => simp
  | some r =>
    rw [← State.mirrorOf_number found]
    by_cases same : r.number = n <;> simp [same]

theorem State.mapCredit_card (s : State) (st : Station) (f : Credit → Credit) :
    s.mapCredit .card (cardNumber st) f = { s with cards := s.cards.set st (s.cards[st].map f) } := by
  simp [State.mapCredit, cardStation_cardNumber]

/-- Settles O15: growth by its three tests in order, and the reach of a credit change record by record. -/
theorem holdGrowth : Obligations.HoldGrowth := by
  unfold Obligations.HoldGrowth
  refine ⟨fun s slot n x g _ _ multiple atLeast below => ⟨State.growthFor_frozen, fun open_ => ?growth⟩,
    fun s n f => ⟨fun m => s.creditOf_mapCredit_house n m f, fun m => s.creditOf_mapCredit_mirror n m f⟩,
    fun s n f => ⟨rfl, rfl⟩, fun s st f => s.mapCredit_card st f⟩
  case growth =>
    rw [State.growthFor_open open_, roundUp_eq multiple atLeast below]
    exact ⟨fun step => if_pos step, fun noStep exact_ => by rw [if_neg (Int.not_le.2 noStep), if_pos exact_],
      fun short => by rw [if_neg (by omega), if_neg (Int.not_le.2 short)]⟩

/-! ### Enumerated fields of the account requests -/

theorem readAcctKind_some {x : Byte} {kind : AcctKind} (h : x.toNat = kind.code) : readAcctKind x = some kind := by
  cases kind with
  | prepaid => rw [show x = 1 from BitVec.eq_of_toNat_eq h]; rfl
  | postpaid => rw [show x = 2 from BitVec.eq_of_toNat_eq h]; rfl

theorem readAcctKind_none {x : Byte} (notPrepaid : x.toNat ≠ 1) (notPostpaid : x.toNat ≠ 2) : readAcctKind x = none := by
  unfold readAcctKind
  rw [if_neg fun h => notPrepaid (by rw [h]; rfl), if_neg fun h => notPostpaid (by rw [h]; rfl)]

/-- A code that is listed is the code of what is read. -/
theorem AcctKind.exists_code {n : Nat} (listed : n = 1 ∨ n = 2) : ∃ kind : AcctKind, n = kind.code := by
  rcases listed with rfl | rfl
  · exact ⟨.prepaid, rfl⟩
  · exact ⟨.postpaid, rfl⟩

theorem AcctKind.code_eq_one {kind : AcctKind} : kind.code = 1 ↔ kind = .prepaid := by
  cases kind <;> simp [AcctKind.code]

theorem readAcctState_some {x : Byte} {state : AcctState} (h : x.toNat = state.code) : readAcctState x = some state := by
  cases state with
  | opened => rw [show x = 1 from BitVec.eq_of_toNat_eq h]; rfl
  | frozen => rw [show x = 2 from BitVec.eq_of_toNat_eq h]; rfl

theorem readAcctState_none_iff (x : Byte) : readAcctState x = none ↔ x.toNat ≠ 1 ∧ x.toNat ≠ 2 := by
  have one : x = 1 ↔ x.toNat = 1 := ⟨fun h => by rw [h]; rfl, fun h => BitVec.eq_of_toNat_eq h⟩
  have two : x = 2 ↔ x.toNat = 2 := ⟨fun h => by rw [h]; rfl, fun h => BitVec.eq_of_toNat_eq h⟩
  unfold readAcctState
  split
  case isTrue opened => simp [one.1 opened]
  case isFalse notOpened =>
    split
    case isTrue frozen => simp [two.1 frozen]
    case isFalse notFrozen => exact ⟨fun _ => ⟨mt one.2 notOpened, mt two.2 notFrozen⟩, fun _ => rfl⟩

theorem readTier_none_iff (x : Byte) : readTier x = none ↔ 3 < x.toNat := by
  unfold readTier
  split <;> simp <;> omega

theorem balanceInRange_iff (v : Int) : balanceInRange v = true ↔ -10000000 ≤ v ∧ v ≤ 99999999 := by
  rw [balanceInRange, Bool.and_eq_true, decide_eq_true_iff, decide_eq_true_iff]
  rfl

theorem balanceInRange_not (v : Int) : balanceInRange v = false ↔ v < -10000000 ∨ 99999999 < v := by
  rw [← Bool.not_eq_true, balanceInRange_iff]
  omega

/-! ### ADJUST (R21) -/

/-- The ADJUST record of a change, and none where nothing changes. -/
theorem State.adjust_eq (s : State) (n : Word) (delta balance : Int) :
    s.adjust n delta balance =
      { s with
        log := if delta = 0 then s.log else s.log ++ [{ seq := s.logNext, entry := .adjust n delta balance }]
        logNext := if delta = 0 then s.logNext else step16 s.logNext } := by
  unfold State.adjust
  split <;> rfl

theorem State.handOn_adjustSeq (s : State) (link : Link) (delta : Int) :
    (s.handOn link).adjustSeq delta = if delta = 0 then 0 else s.logNext := by
  rw [State.adjustSeq, State.handOn_logNext]

/-! ### ACCT_CREATE (R14, R15) -/

section Insert
variable (r : HouseRecord)

theorem mem_insertHouse (house : List HouseRecord) (x : HouseRecord) : x ∈ insertHouse r house ↔ x = r ∨ x ∈ house := by
  induction house with
  | nil => simp [insertHouse]
  | cons y rest ih =>
    unfold insertHouse
    split
    · simp
    · rw [List.mem_cons, ih, List.mem_cons, or_left_comm]

/-- A record with a number of its own goes to its place in number order. -/
theorem insertHouse_pairwise {house : List HouseRecord} (sorted : house.Pairwise (fun x y => x.number.toNat < y.number.toNat))
    (fresh : ∀ x ∈ house, x.number ≠ r.number) :
    (insertHouse r house).Pairwise (fun x y => x.number.toNat < y.number.toNat) := by
  induction house with
  | nil => exact List.pairwise_singleton _ _
  | cons y rest ih =>
    obtain ⟨least, restSorted⟩ := List.pairwise_cons.1 sorted
    have differs : y.number.toNat ≠ r.number.toNat := fun same => fresh y List.mem_cons_self (BitVec.eq_of_toNat_eq same)
    unfold insertHouse
    split
    case isTrue before =>
      refine List.pairwise_cons.2 ⟨fun x hx => ?_, sorted⟩
      rcases List.mem_cons.1 hx with rfl | later
      · exact before
      · exact before.trans (least x later)
    case isFalse notBefore =>
      refine List.pairwise_cons.2 ⟨fun x hx => ?_, ih restSorted fun x hx => fresh x (List.mem_cons_of_mem y hx)⟩
      rcases (mem_insertHouse r rest x).1 hx with rfl | later
      · omega
      · exact least x later

end Insert

/-- Check 1 of R14, on the kind. -/
theorem takeAcctCreate_badKind {f : AcctCreateFields} (s : State) (unread : readAcctKind f.kind = none) :
    takeAcctCreate f s = (s, ⟨.badValue, []⟩) := by
  unfold takeAcctCreate
  rw [unread]
  rfl

/-- Check 1 of R14, on the tier. -/
theorem takeAcctCreate_badTier {f : AcctCreateFields} (s : State) (unread : readTier f.tier = none) :
    takeAcctCreate f s = (s, ⟨.badValue, []⟩) := by
  unfold takeAcctCreate
  rw [unread]
  cases readAcctKind f.kind <;> rfl

section Create
variable {s : State} {f : AcctCreateFields} {kind : AcctKind} {tier : Tier} (isKind : f.kind.toNat = kind.code)
  (inTier : f.tier.toNat = tier.val)
include isKind inTier

/-- A kind and a tier that are read go on to the number and the limit of check 1. -/
theorem takeAcctCreate_read :
    takeAcctCreate f s =
      if isOrdinary f.number = false ∨ 10000000 < (createRecord f kind tier).limit then (s, ⟨.badValue, []⟩)
      else
        match s.createRefusal (createRecord f kind tier) with
        | some code => (s, ⟨code, []⟩)
        | none =>
          (s.createHouse (createRecord f kind tier),
            imageAnswer (createRecord f kind tier).image (s.adjustSeq f.balance.toInt)) := by
  unfold takeAcctCreate
  rw [readAcctKind_some isKind, readTier_some inTier]
  rfl

theorem takeAcctCreate_badValue (bad : isOrdinary f.number = false ∨ 10000000 < (createRecord f kind tier).limit) :
    takeAcctCreate f s = (s, ⟨.badValue, []⟩) := by
  rw [takeAcctCreate_read isKind inTier, if_pos bad]

variable (ordinary : isOrdinary f.number = true) (limit : (createRecord f kind tier).limit ≤ 10000000)
include ordinary limit

theorem takeAcctCreate_refused {code : RespCode} (refusal : s.createRefusal (createRecord f kind tier) = some code) :
    takeAcctCreate f s = (s, ⟨code, []⟩) := by
  rw [takeAcctCreate_read isKind inTier, if_neg (by simp [ordinary, limit]), refusal]

theorem takeAcctCreate_created (passed : s.createRefusal (createRecord f kind tier) = none) :
    takeAcctCreate f s =
      (s.createHouse (createRecord f kind tier),
        imageAnswer (createRecord f kind tier).image (s.adjustSeq f.balance.toInt)) := by
  rw [takeAcctCreate_read isKind inTier, if_neg (by simp [ordinary, limit]), passed]

end Create

section CreateRefusal
variable {s : State} {r : HouseRecord}

theorem State.createRefusal_routed (remote : s.isRemote r.number = true) : s.createRefusal r = some .routed :=
  if_pos remote

variable (here : s.isRemote r.number = false)
include here

theorem State.createRefusal_duplicate (there : s.houseRecord r.number ≠ none) : s.createRefusal r = some .duplicate := by
  rw [State.createRefusal, if_neg (by simp [here]), if_pos (Option.isSome_iff_ne_none.2 there)]

variable (missing : s.houseRecord r.number = none)
include missing

theorem State.createRefusal_tableFull (full : 512 ≤ s.house.length) : s.createRefusal r = some .tableFull := by
  rw [State.createRefusal, if_neg (by simp [here]), if_neg (by simp [missing])]
  exact if_pos full

variable (room : s.house.length < 512)
include room

/-- A number that is new and has room goes on to checks 5 and 6 of R14. -/
theorem State.createRefusal_fits :
    s.createRefusal r =
      if balanceInRange r.credit.balance = false ∨ r.credit.balance < -(r.limit : Int) then some .limit
      else if r.credit.balance ≠ 0 ∧ s.admits = false then some .logFull
      else none := by
  rw [State.createRefusal, if_neg (by simp [here]), if_neg (by simp [missing])]
  exact if_neg (Nat.not_le.2 room)

end CreateRefusal

theorem State.createHouse_eq (s : State) (r : HouseRecord) :
    s.createHouse r =
      { s with
        house := insertHouse r s.house
        log := if r.credit.balance = 0 then s.log else
          s.log ++ [{ seq := s.logNext, entry := .adjust r.number r.credit.balance r.credit.balance }]
        logNext := if r.credit.balance = 0 then s.logNext else step16 s.logNext } :=
  State.adjust_eq _ _ _ _

theorem State.handOn_createHouse (s : State) (link : Link) (r : HouseRecord) :
    (s.handOn link).createHouse r =
      { s.handOn link with
        house := insertHouse r s.house
        log := if r.credit.balance = 0 then s.log else
          s.log ++ [{ seq := s.logNext, entry := .adjust r.number r.credit.balance r.credit.balance }]
        logNext := if r.credit.balance = 0 then s.logNext else step16 s.logNext } := by
  rw [State.createHouse_eq, State.handOn_house, State.handOn_log, State.handOn_logNext]

/-- The image of a record just created: nothing is held and no run draws on it. -/
theorem createRecord_image (f : AcctCreateFields) (kind : AcctKind) (tier : Tier) (number : Nat) :
    (createRecord f kind tier).image.bytes number =
      be4 f.number.toNat ++ be1 1 ++ be1 kind.code ++ be1 tier.val ++ be1 1 ++ be4s f.balance.toInt ++
        be4 (createRecord f kind tier).limit ++ be4 0 ++ be4s (f.balance.toInt + (createRecord f kind tier).limit) ++
        be1 (min 8 f.maxRuns.toNat) ++ be1 0 ++ be2 number := by
  simp [AcctImage.bytes, HouseRecord.image, createRecord, SlotKind.code, AcctState.code, clampRuns, Config.maxRunsMax]

/-- Settles O36: the checks of R14 in their order, the record and its ADJUST record, and its place in the table. -/
theorem acctCreate : Obligations.AcctCreate := by
  unfold Obligations.AcctCreate
  intro s f heard h answered limit balance
  have limitOf {kind : AcctKind} {tier : Tier} (isKind : f.kind.toNat = kind.code) : (createRecord f kind tier).limit = limit := by
    simp only [createRecord, limit, isKind, AcctKind.code_eq_one]
  refine ⟨fun bad => request_answered rfl heard ?badValue, fun kind tier low high isKind inTier small => ?checks,
    fun record house sorted fresh => ⟨insertHouse_pairwise record sorted fresh, mem_insertHouse record house⟩⟩
  case badValue =>
    by_cases listed : f.kind.toNat = 1 ∨ f.kind.toNat = 2
    · obtain ⟨kind, isKind⟩ := AcctKind.exists_code listed
      by_cases tiered : 3 < f.tier.toNat
      · exact takeAcctCreate_badTier h (readTier_none tiered)
      · refine takeAcctCreate_badValue (tier := ⟨f.tier.toNat, by omega⟩) isKind rfl ?_
        rw [limitOf isKind, ← Bool.not_eq_true, isOrdinary_iff]
        omega
    · exact takeAcctCreate_badKind h (readAcctKind_none (fun h => listed (.inl h)) (fun h => listed (.inr h)))
  case checks =>
    have ordinary : isOrdinary f.number = true := (isOrdinary_iff _).2 ⟨low, high⟩
    have isLimit : (createRecord f kind tier).limit = limit := limitOf isKind
    have inRange : (createRecord f kind tier).limit ≤ 10000000 := by rwa [isLimit]
    have refused {code : RespCode} (refusal : h.createRefusal (createRecord f kind tier) = some code) : answered h ⟨code, []⟩ :=
      request_answered rfl heard (takeAcctCreate_refused isKind inTier ordinary inRange refusal)
    refine ⟨fun remote => ?routed, fun here => ⟨fun there => ?duplicate, fun missing => ⟨fun full => ?tableFull, fun room =>
      ⟨fun bad => ?limit, fun notLow notHigh covered => ⟨fun money full => ?logFull, fun admitted => ?created⟩⟩⟩⟩⟩
    case routed => exact refused (State.createRefusal_routed ((s.handOn_isRemote .m _).trans remote))
    all_goals have hereThen : h.isRemote f.number = false := (s.handOn_isRemote .m f.number).trans here
    case duplicate =>
      exact refused (State.createRefusal_duplicate hereThen (by rwa [State.handOn_houseRecord]))
    all_goals have missingThen : h.houseRecord f.number = none := (s.handOn_houseRecord .m f.number).trans missing
    case tableFull => exact refused (State.createRefusal_tableFull hereThen missingThen (by rwa [State.handOn_house]))
    all_goals
      have checks : h.createRefusal (createRecord f kind tier) =
          if balanceInRange balance = false ∨ balance < -(limit : Int) then some .limit
          else if balance ≠ 0 ∧ h.admits = false then some .logFull
          else none := by
        rw [State.createRefusal_fits hereThen missingThen (by rwa [State.handOn_house]), isLimit]
        rfl
    case limit =>
      refine refused (checks.trans (if_pos ?_))
      rw [balanceInRange_not]
      exact or_assoc.2 bad
    all_goals
      have inside : ¬ (balanceInRange balance = false ∨ balance < -(limit : Int)) := by
        rw [balanceInRange_not]
        omega
      rw [if_neg inside, State.handOn_admits] at checks
    case logFull => exact refused (checks.trans (if_pos ⟨money, s.admits_not.2 full⟩))
    case created =>
      have passed : h.createRefusal (createRecord f kind tier) = none := by
        refine checks.trans (if_neg fun stopped => ?_)
        rcases admitted with zero | room
        · exact stopped.1 zero
        · exact absurd (s.admits_iff.2 room) (by simp [stopped.2])
      intro record image
      have took := takeAcctCreate_created isKind inTier ordinary inRange passed
      rw [State.handOn_createHouse, imageAnswer, createRecord_image, State.handOn_adjustSeq, isLimit] at took
      have sameRecord : createRecord f kind tier = record := by
        simp only [createRecord, record, ← isLimit, clampRuns, Config.maxRunsMax, balance]
      rw [sameRecord] at took
      exact request_answered rfl heard took

/-! ### ACCT_UPDATE (R16, R17) -/

section UpdateFields
variable (f : AcctUpdateFields) (r : HouseRecord)

theorem updateOf_badTier (kind : AcctKind) : (updateOf f kind).tier = some none ↔ f.mask.getLsbD 0 = true ∧ 3 < f.tier.toNat := by
  simp only [updateOf, ← readTier_none_iff]
  split <;> simp_all

theorem updateOf_badState (kind : AcctKind) :
    (updateOf f kind).state = some none ↔ f.mask.getLsbD 3 = true ∧ f.state.toNat ≠ 1 ∧ f.state.toNat ≠ 2 := by
  simp only [updateOf, ← readAcctState_none_iff]
  split <;> simp_all

theorem apply_limit :
    ((updateOf f r.kind).apply r).limit =
      if f.mask.getLsbD 1 = true then (if r.kind = .prepaid then 0 else f.limit.toNat) else r.limit := by
  simp only [Update.apply, updateOf]
  split <;> rfl

theorem updateOf_badLimit :
    (updateOf f r.kind).limit.any (fun l => Config.limitMax < l) = true ↔
      f.mask.getLsbD 1 = true ∧ 10000000 < ((updateOf f r.kind).apply r).limit := by
  rw [apply_limit]
  simp only [updateOf]
  generalize f.mask.getLsbD 1 = masked
  cases masked with
  | true => exact decide_eq_true_iff.trans (and_iff_right rfl).symm
  | false => simp

theorem updateOf_limit_isSome (kind : AcctKind) : (updateOf f kind).limit.isSome = true ↔ f.mask.getLsbD 1 = true := by
  simp only [updateOf]
  split <;> simp_all

theorem apply_maxRuns :
    ((updateOf f r.kind).apply r).maxRuns = if f.mask.getLsbD 2 = true then min 8 f.maxRuns.toNat else r.maxRuns := by
  simp only [Update.apply, updateOf]
  split <;> rfl

theorem updateOf_conflict (count : Nat) :
    (updateOf f r.kind).maxRuns.any (fun m => m != 0 && m < count) = true ↔
      f.mask.getLsbD 2 = true ∧ ((updateOf f r.kind).apply r).maxRuns ≠ 0 ∧ ((updateOf f r.kind).apply r).maxRuns < count := by
  rw [apply_maxRuns]
  simp only [updateOf]
  generalize f.mask.getLsbD 2 = masked
  cases masked <;> simp [clampRuns, Config.maxRunsMax]

/-- The delta of a masked BALANCE_DELTA, 0 where it is absent. -/
theorem updateOf_delta (kind : AcctKind) :
    (updateOf f kind).delta.getD 0 = if f.mask.getLsbD 4 = true then f.delta.toInt else 0 := by
  simp only [updateOf]
  generalize f.mask.getLsbD 4 = masked
  by_cases zero : f.delta.toInt = 0 <;> cases masked <;> simp [zero]

theorem updateOf_delta_isSome (kind : AcctKind) :
    (updateOf f kind).delta.isSome = true ↔ (if f.mask.getLsbD 4 = true then f.delta.toInt else 0) ≠ 0 := by
  simp only [updateOf]
  generalize f.mask.getLsbD 4 = masked
  by_cases zero : f.delta.toInt = 0 <;> cases masked <;> simp [zero]

theorem apply_balance :
    ((updateOf f r.kind).apply r).credit.balance =
      r.credit.balance + if f.mask.getLsbD 4 = true then f.delta.toInt else 0 := by
  rw [← updateOf_delta f r.kind]
  rfl

theorem apply_tier {tier : Tier} (inTier : tier.val = if f.mask.getLsbD 0 = true then f.tier.toNat else r.tier.val) :
    ((updateOf f r.kind).apply r).tier = tier := by
  simp only [Update.apply, updateOf]
  generalize f.mask.getLsbD 0 = masked at inTier ⊢
  cases masked with
  | true => simp [readTier_some inTier.symm]
  | false => simp [Fin.ext inTier]

theorem AcctState.code_injective {a b : AcctState} (same : a.code = b.code) : a = b := by
  cases a <;> cases b <;> cases same <;> rfl

theorem apply_state {state : AcctState} (coded : state.code = if f.mask.getLsbD 3 = true then f.state.toNat else r.state.code) :
    ((updateOf f r.kind).apply r).state = state := by
  simp only [Update.apply, updateOf]
  generalize f.mask.getLsbD 3 = masked at coded ⊢
  cases masked with
  | true => simp [readAcctState_some coded.symm]
  | false => simp [AcctState.code_injective coded]

end UpdateFields

/-- Check 1 of R16. -/
theorem takeAcctUpdate_noNumber {f : AcctUpdateFields} (s : State) (nothing : isNoNumber f.number = true) :
    takeAcctUpdate f s = (s, ⟨.badValue, []⟩) :=
  if_pos nothing

/-- Check 2 of R16. -/
theorem takeAcctUpdate_notLocal {f : AcctUpdateFields} {s : State} (names : isNoNumber f.number = false)
    (elsewhere : isCardNumber f.number = true ∨ s.isRemote f.number = true) : takeAcctUpdate f s = (s, ⟨.notLocal, []⟩) := by
  rw [takeAcctUpdate, if_neg (by simp [names]), if_pos elsewhere]
  rfl

section Update
variable {s : State} {f : AcctUpdateFields} (ordinary : isOrdinary f.number = true) (here : s.isRemote f.number = false)
include ordinary here

/-- A house number goes on to check 3 of R16. -/
theorem takeAcctUpdate_local :
    takeAcctUpdate f s =
      match s.houseRecord f.number with
      | none => s.refuse .notFound
      | some r =>
        match s.updateRefusal r (updateOf f r.kind) with
        | some code => s.refuse code
        | none =>
          (s.updateHouse r (updateOf f r.kind),
            imageAnswer ((updateOf f r.kind).apply r).image (s.adjustSeq ((updateOf f r.kind).delta.getD 0))) := by
  exact (if_neg (by simp [isNoNumber_of_ordinary ordinary])).trans
    (if_neg (by simp [isCardNumber_of_ordinary ordinary, here]))

theorem takeAcctUpdate_notFound (missing : s.houseRecord f.number = none) : takeAcctUpdate f s = (s, ⟨.notFound, []⟩) := by
  rw [takeAcctUpdate_local ordinary here, missing]
  rfl

variable {r : HouseRecord} (found : s.houseRecord f.number = some r)
include found

theorem takeAcctUpdate_refused {code : RespCode} (refusal : s.updateRefusal r (updateOf f r.kind) = some code) :
    takeAcctUpdate f s = (s, ⟨code, []⟩) := by
  rw [takeAcctUpdate_local ordinary here, found]
  simp only [refusal]
  rfl

theorem takeAcctUpdate_updated (passed : s.updateRefusal r (updateOf f r.kind) = none) :
    takeAcctUpdate f s =
      (s.updateHouse r (updateOf f r.kind),
        imageAnswer ((updateOf f r.kind).apply r).image (s.adjustSeq ((updateOf f r.kind).delta.getD 0))) := by
  rw [takeAcctUpdate_local ordinary here, found]
  simp only [passed]

end Update

theorem State.handOn_updateHouse (s : State) (link : Link) (r : HouseRecord) (u : Update) :
    (s.handOn link).updateHouse r u =
      { s.handOn link with
        house := s.house.map (fun x => if x.number = r.number then u.apply r else x)
        log := if u.delta.getD 0 = 0 then s.log else
          s.log ++ [{ seq := s.logNext, entry := .adjust r.number (u.delta.getD 0) (u.apply r).credit.balance }]
        logNext := if u.delta.getD 0 = 0 then s.logNext else step16 s.logNext } := by
  rw [State.updateHouse, State.adjust_eq, State.replaceHouse, State.handOn_house, State.handOn_log, State.handOn_logNext]
  rfl

/-- Settles O37: the checks of R16 in their order, and every masked field applied together. -/
theorem acctUpdate : Obligations.AcctUpdate := by
  unfold Obligations.AcctUpdate
  intro s f heard h answered
  refine ⟨fun nothing => request_answered rfl heard (takeAcctUpdate_noNumber h ((isNoNumber_iff _).2 nothing)),
    fun low high => request_answered rfl heard ?card, fun low high => ⟨fun remote => request_answered rfl heard ?remote,
      fun here => ⟨fun missing => request_answered rfl heard ?notFound, fun r found => ?found⟩⟩⟩
  case card =>
    have card : isCardNumber f.number = true := (isCardNumber_iff _).2 ⟨low, high⟩
    exact takeAcctUpdate_notLocal (isNoNumber_of_card card) (.inl card)
  all_goals have ordinary : isOrdinary f.number = true := (isOrdinary_iff _).2 ⟨low, high⟩
  case remote =>
    exact takeAcctUpdate_notLocal (isNoNumber_of_ordinary ordinary) (.inr ((s.handOn_isRemote .m _).trans remote))
  all_goals have hereThen : h.isRemote f.number = false := (s.handOn_isRemote .m _).trans here
  case notFound => exact takeAcctUpdate_notFound ordinary hereThen ((s.handOn_houseRecord .m _).trans missing)
  case found =>
    have foundThen : h.houseRecord f.number = some r := (s.handOn_houseRecord .m _).trans found
    intro masked delta limit maxRuns balance badTier badState badLimit
    have refused {code : RespCode} (refusal : h.updateRefusal r (updateOf f r.kind) = some code) : answered h ⟨code, []⟩ :=
      request_answered rfl heard (takeAcctUpdate_refused ordinary hereThen foundThen refusal)
    have isLimit : ((updateOf f r.kind).apply r).limit = limit := apply_limit f r
    have isMax : ((updateOf f r.kind).apply r).maxRuns = maxRuns := apply_maxRuns f r
    have isBalance : ((updateOf f r.kind).apply r).credit.balance = balance := apply_balance f r
    have isHeld : ((updateOf f r.kind).apply r).credit.held = r.credit.held := rfl
    have isDelta : (updateOf f r.kind).delta.getD 0 = delta := updateOf_delta f r.kind
    have checks : h.updateRefusal r (updateOf f r.kind) =
        if badTier ∨ badState ∨ badLimit then some .badValue
        else if masked 2 ∧ maxRuns ≠ 0 ∧ maxRuns < r.credit.runList.length then some .conflict
        else if balance < -10000000 ∨ 99999999 < balance then some .limit
        else if (masked 1 ∨ delta ≠ 0) ∧ balance - r.credit.held < -(limit : Int) then some .insufficient
        else if delta ≠ 0 ∧ s.admits = false then some .logFull
        else none := by
      simp only [State.updateRefusal, updateOf_badTier, updateOf_badState, updateOf_badLimit, updateOf_conflict,
        updateOf_limit_isSome, updateOf_delta_isSome, balanceInRange_not, isLimit, isMax, isBalance, isHeld, h, State.handOn_admits]
      rfl
    refine ⟨fun bad => refused (checks.trans (if_pos bad)), fun goodTier goodState goodLimit => ?_⟩
    rw [if_neg (not_or.2 ⟨goodTier, not_or.2 ⟨goodState, goodLimit⟩⟩)] at checks
    refine ⟨fun mask some_ less => refused (checks.trans (if_pos ⟨mask, some_, less⟩)), fun runs => ?_⟩
    have noConflict : ¬ (masked 2 ∧ maxRuns ≠ 0 ∧ maxRuns < r.credit.runList.length) := by
      rintro ⟨mask, some_, less⟩
      rcases runs with unmasked | zero | enough
      · exact unmasked mask
      · exact some_ zero
      · omega
    rw [if_neg noConflict] at checks
    refine ⟨fun outside => refused (checks.trans (if_pos outside)), fun notLow notHigh => ?_⟩
    rw [if_neg (by omega)] at checks
    refine ⟨fun touched short => refused (checks.trans (if_pos ⟨touched, short⟩)), fun covered => ?_⟩
    have noShort : ¬ ((masked 1 ∨ delta ≠ 0) ∧ balance - r.credit.held < -(limit : Int)) := by
      rintro ⟨touched, short⟩
      rcases covered with ⟨unmasked, zero⟩ | enough
      · exact touched.elim unmasked fun some_ => some_ zero
      · omega
    rw [if_neg noShort] at checks
    refine ⟨fun money full => refused (checks.trans (if_pos ⟨money, s.admits_not.2 full⟩)), fun admitted tier state inTier coded => ?_⟩
    have noFull : ¬ (delta ≠ 0 ∧ s.admits = false) := by
      rintro ⟨money, full⟩
      rcases admitted with zero | room
      · exact money zero
      · exact absurd (s.admits_iff.2 room) (by simp [full])
    rw [if_neg noFull] at checks
    intro record
    have isRecord : (updateOf f r.kind).apply r = record := by
      simp only [record, ← isLimit, ← isMax, ← isBalance, ← apply_tier f r inTier, ← apply_state f r coded]
      rfl
    have took := takeAcctUpdate_updated ordinary hereThen foundThen checks
    rw [State.handOn_updateHouse, isRecord, isDelta, State.handOn_adjustSeq] at took
    exact request_answered rfl heard took

/-! ### ACCT_READ (R18) -/

theorem takeAcctRead_noNumber {n : Word} (s : State) (nothing : isNoNumber n = true) : takeAcctRead n s = (s, ⟨.badValue, []⟩) :=
  if_pos nothing

section Read
variable {s : State} {n : Word} (names : isNoNumber n = false)
include names

theorem takeAcctRead_notFound (missing : s.imageOf n = none) : takeAcctRead n s = (s, ⟨.notFound, []⟩) := by
  rw [takeAcctRead, if_neg (by simp [names]), missing]
  rfl

theorem takeAcctRead_image {i : AcctImage} (found : s.imageOf n = some i) : takeAcctRead n s = (s, imageAnswer i 0) := by
  rw [takeAcctRead, if_neg (by simp [names]), found]

end Read

/-- The number of a station's card slot, as a value. -/
theorem cardNumber_toNat (st : Station) : (cardNumber st).toNat = 0xFFFFFFF0 + st.val := by
  rw [cardNumber, cardBase, BitVec.toNat_ofNat]
  omega

/-- On the M-link a card slot number resolves to its station's card slot, with the tier of its session (R13, R18). -/
theorem State.imageOf_card (s : State) (st : Station) :
    s.imageOf (cardNumber st) =
      match s.cards[st], s.sessions[st] with
      | some c, some x => some (cardImage st x.tier c)
      | _, _ => none := by
  have card : isCardNumber (cardNumber st) = true := by
    rw [isCardNumber_iff, cardNumber_toNat]
    omega
  rw [State.imageOf, if_pos card]
  simp only [cardStation_cardNumber] <;> rfl

theorem State.imageOf_remote {s : State} {n : Word} (ordinary : isOrdinary n = true) (remote : s.isRemote n = true) :
    s.imageOf n = (s.mirrorOf n).map Mirror.image := by
  rw [State.imageOf, if_neg (by simp [isCardNumber_of_ordinary ordinary]), if_pos remote]

theorem State.imageOf_house {s : State} {n : Word} (ordinary : isOrdinary n = true) (here : s.isRemote n = false) :
    s.imageOf n = (s.houseRecord n).map HouseRecord.image := by
  rw [State.imageOf, if_neg (by simp [isCardNumber_of_ordinary ordinary]), if_neg (by simp [here])]

theorem Mirror.image_state (m : Mirror) : m.image.stateCode = match m.state with | .pending => 3 | .active => 4 := by
  obtain ⟨_, state, _, _⟩ := m
  cases state <;> rfl

theorem HouseRecord.image_codes (r : HouseRecord) :
    r.image.kindCode = (match r.kind with | .prepaid => 1 | .postpaid => 2) ∧
      r.image.stateCode = (match r.state with | .opened => 1 | .frozen => 2) := by
  obtain ⟨_, kind, _, state, _, _, _⟩ := r
  cases kind <;> cases state <;> exact ⟨rfl, rfl⟩

/-! ### ACCT_NEXT (R19) -/

theorem State.houseAfter_none {s : State} {n : Word} (all : ∀ x ∈ s.house, x.number.toNat ≤ n.toNat) : s.houseAfter n = none := by
  rw [State.houseAfter, List.find?_eq_none]
  intro x hx after
  exact Nat.not_lt.2 (all x hx) (of_decide_eq_true after)

/-- In a table in ascending order the first number past `n` is the least. -/
theorem State.houseAfter_some {s : State} {n : Word} {r : HouseRecord}
    (sorted : s.house.Pairwise (fun x y => x.number.toNat < y.number.toNat)) (there : r ∈ s.house) (after : n.toNat < r.number.toNat)
    (least : ∀ x ∈ s.house, n.toNat < x.number.toNat → r.number.toNat ≤ x.number.toNat) : s.houseAfter n = some r := by
  obtain ⟨before, rest, parts⟩ := List.append_of_mem there
  have earlier : ∀ x ∈ before, ¬ n.toNat < x.number.toNat := by
    intro x hx past
    have smaller : x.number.toNat < r.number.toNat :=
      (List.pairwise_append.1 (parts ▸ sorted)).2.2 x hx r List.mem_cons_self
    have := least x (by rw [parts]; exact List.mem_append_left _ hx) past
    omega
  rw [State.houseAfter, parts, List.find?_append, List.find?_eq_none.2 (by simpa using earlier)]
  simp [after]

theorem takeAcctNext_end {s : State} {n : Word} (none_ : s.houseAfter n = none) : takeAcctNext n s = (s, ⟨.endOfTable, []⟩) := by
  rw [takeAcctNext, none_]
  rfl

theorem takeAcctNext_image {s : State} {n : Word} {r : HouseRecord} (next : s.houseAfter n = some r) :
    takeAcctNext n s = (s, imageAnswer r.image 0) := by
  rw [takeAcctNext, next]

/-- Settles O38: the record that a number resolves to, by the range of the number and the route, and the next one in the table's order. -/
theorem acctReadAndNext : Obligations.AcctReadAndNext := by
  unfold Obligations.AcctReadAndNext
  refine ⟨?read, ?next⟩
  case read =>
    intro s n heard answered image
    have read {r : Response} (took : takeAcctRead n (s.handOn .m) = (s.handOn .m, r)) : answered r := request_answered rfl heard took
    refine ⟨fun nothing => read (takeAcctRead_noNumber _ ((isNoNumber_iff n).2 nothing)), fun st number => ?card, fun low high => ?ordinary⟩
    case card =>
      have is : n = cardNumber st := BitVec.eq_of_toNat_eq (number.trans (cardNumber_toNat st).symm)
      have names : isNoNumber n = false := by
        rw [← Bool.not_eq_true, isNoNumber_iff]
        omega
      have resolved := (s.handOn .m).imageOf_card st
      rw [State.handOn_cards, State.handOn_sessions, ← is] at resolved
      refine ⟨fun missing => read (takeAcctRead_notFound names ?_), fun c x slot session => ?_⟩
      · rw [resolved, missing]
      · rw [slot, session] at resolved
        have took := takeAcctRead_image names resolved
        rw [cardImage, ← is] at took
        exact read took
    case ordinary =>
      have ordinary : isOrdinary n = true := (isOrdinary_iff n).2 ⟨low, high⟩
      have names := isNoNumber_of_ordinary ordinary
      refine ⟨fun remote => ?remote, fun here => ?here⟩
      case remote =>
        have resolved := State.imageOf_remote ordinary ((s.handOn_isRemote .m n).trans remote)
        rw [State.handOn_mirrorOf] at resolved
        refine ⟨fun missing => read (takeAcctRead_notFound names (by rw [resolved, missing]; rfl)), fun m found => ?_⟩
        rw [found] at resolved
        have took := takeAcctRead_image names resolved
        rw [imageAnswer, AcctImage.bytes, Mirror.image_state] at took
        obtain rfl := State.mirrorOf_number found
        exact read took
      case here =>
        have resolved := State.imageOf_house ordinary ((s.handOn_isRemote .m n).trans here)
        rw [State.handOn_houseRecord] at resolved
        refine ⟨fun missing => read (takeAcctRead_notFound names (by rw [resolved, missing]; rfl)), fun r found => ?_⟩
        rw [found] at resolved
        have took := takeAcctRead_image names resolved
        rw [imageAnswer, AcctImage.bytes, r.image_codes.1, r.image_codes.2] at took
        obtain rfl := State.houseRecord_number found
        exact read took
  case next =>
    intro s n heard sorted answered
    have sameNext : (s.handOn .m).houseAfter n = s.houseAfter n := by rw [State.houseAfter, State.handOn_house, State.houseAfter]
    exact ⟨fun all => request_answered rfl heard (takeAcctNext_end (sameNext.trans (State.houseAfter_none all))),
      fun r there after least =>
        request_answered rfl heard (takeAcctNext_image (sameNext.trans (State.houseAfter_some sorted there after least)))⟩

end Sys2Proof.Machine

/-! PROOF. PRICE_WRITE (R26 to R28): how an item is read from its values, what a stored item leaves in its tier, and the statement
assembled from the branches of what the price banks block does. -/

namespace Sys2Proof.Machine

/-! ### Two-byte values -/

theorem readValues_be2 (values : List Half) : readValues (values.flatMap (fun v => be2 v.toNat)) = some (values.map (·.toNat)) := by
  induction values with
  | nil => rfl
  | cons v rest ih =>
    obtain ⟨bytes, back⟩ := half_be2 v
    rw [List.flatMap_cons, bytes, List.cons_append, List.cons_append, List.nil_append, readValues, ih, back]
    rfl

/-- Values that are read fill two bytes each. -/
theorem readValues_length {bytes : List Byte} {values : List Nat} (read : readValues bytes = some values) :
    bytes.length = 2 * values.length := by
  induction bytes using readValues.induct generalizing values with
  | case1 => cases read; rfl
  | case2 => cases read
  | case3 hi lo rest ih =>
    rw [readValues, Option.map_eq_some_iff] at read
    obtain ⟨tail, readTail, rfl⟩ := read
    rw [List.length_cons, List.length_cons, List.length_cons, ih readTail]
    omega

/-! ### Reading an item (R27, checks 1 to 3) -/

section ReadItem
variable {item : Byte} {bytes : List Byte}

theorem readItem_base {start : Byte} {values : List Half} (isBase : item.toNat = 1) :
    readItem item (start :: values.flatMap (fun v => be2 v.toNat)) =
      if start.toNat ≤ 15 ∧ 1 ≤ values.length ∧ start.toNat + values.length ≤ 16 then
        some (.base start.toNat (values.map (·.toNat)))
      else none := by
  unfold readItem
  rw [if_pos (BitVec.eq_of_toNat_eq isBase)]
  simp only [readValues_be2, List.length_map]

theorem readItem_back {percent : Byte} (isBack : item.toNat = 2) : readItem item [percent] = some (.back percent.toNat) := by
  rw [show item = 2 from BitVec.eq_of_toNat_eq isBack]
  rfl

theorem readItem_breaks {t1 d1 t2 d2 t3 d3 t4 d4 : Half} (isBreaks : item.toNat = 3) :
    readItem item ([t1, d1, t2, d2, t3, d3, t4, d4].flatMap (fun v => be2 v.toNat)) =
      if t1.toNat ≤ 9999 ∧ t2.toNat ≤ 9999 ∧ t3.toNat ≤ 9999 ∧ t4.toNat ≤ 9999 then
        some (.breaks ⟨t1.toNat, d1.toNat⟩ ⟨t2.toNat, d2.toNat⟩ ⟨t3.toNat, d3.toNat⟩ ⟨t4.toNat, d4.toNat⟩)
      else none := by
  unfold readItem
  rw [show item = 3 from BitVec.eq_of_toNat_eq isBreaks, if_neg (by decide), if_neg (by decide), if_pos rfl,
    readValues_be2]
  rfl

theorem readItem_unlisted (notBase : item.toNat ≠ 1) (notBack : item.toNat ≠ 2) (notBreaks : item.toNat ≠ 3) :
    readItem item bytes = none := by
  unfold readItem
  rw [if_neg fun h => notBase (by rw [h]; rfl), if_neg fun h => notBack (by rw [h]; rfl),
    if_neg fun h => notBreaks (by rw [h]; rfl)]

/-- Base prices are a start kind and whole values. -/
theorem readItem_base_even (isBase : item.toNat = 1) (even : bytes.length % 2 = 0) : readItem item bytes = none := by
  unfold readItem
  rw [if_pos (BitVec.eq_of_toNat_eq isBase)]
  cases bytes with
  | nil => rfl
  | cons start rest =>
    cases read : readValues rest with
    | none => simp only [read]
    | some values =>
      have := readValues_length read
      rw [List.length_cons] at even
      omega

theorem readItem_back_length (isBack : item.toNat = 2) (length : bytes.length ≠ 1) : readItem item bytes = none := by
  rw [show item = 2 from BitVec.eq_of_toNat_eq isBack]
  match bytes, length with
  | [], _ => rfl
  | [_], length => exact absurd rfl length
  | _ :: _ :: _, _ => rfl

theorem readItem_breaks_length (isBreaks : item.toNat = 3) (length : bytes.length ≠ 16) : readItem item bytes = none := by
  unfold readItem
  rw [show item = 3 from BitVec.eq_of_toNat_eq isBreaks, if_neg (by decide), if_neg (by decide), if_pos rfl]
  split
  case h_1 read => exact absurd (readValues_length read) length
  case h_2 => rfl

end ReadItem

/-! ### The item in its tier (R28) -/

/-- Storing consecutive prices writes their kinds and leaves the others. -/
theorem getElem_storeBase (values : List Nat) (base : Vector Nat 16) (start : Nat) (k : Nat) (hk : k < 16) :
    (storeBase base start values)[k] = if h : start ≤ k ∧ k < start + values.length then values[k - start]'(by omega) else base[k] := by
  induction values generalizing base start with
  | nil =>
    rw [storeBase, dif_neg]
    simp only [List.length_nil]
    omega
  | cons v rest ih =>
    rw [storeBase, ih, Vector.getElem_setIfInBounds]
    rcases Nat.lt_trichotomy k start with below | rfl | above
    · rw [dif_neg (by omega), dif_neg (by omega), if_neg (by omega)]
    · simp
    · by_cases inside : k < start + 1 + rest.length
      · rw [dif_pos (by omega), dif_pos (by simp only [List.length_cons]; omega)]
        rw [List.getElem_cons, dif_neg (by omega)]
        congr 1
      · rw [dif_neg (by omega), dif_neg (by simp only [List.length_cons]; omega), if_neg (by omega)]

/-- A tier whose prices are the values from the start kind on, and the old ones elsewhere, is the tier with the item stored. -/
theorem TierPrices.store_base_eq {old prices : TierPrices} {start : Nat} {values : List Half} (back : prices.back = old.back)
    (breaks : prices.breaks = old.breaks)
    (base : ∀ k : Fin 16, prices.base[k] =
      if h : start ≤ k.val ∧ k.val < start + values.length then (values[k.val - start]'(by omega)).toNat else old.base[k]) :
    old.store (.base start (values.map (·.toNat))) = prices := by
  obtain ⟨newBase, newBack, newBreaks⟩ := prices
  obtain rfl : newBack = old.back := back
  obtain rfl : newBreaks = old.breaks := breaks
  have same : storeBase old.base start (values.map (·.toNat)) = newBase := by
    refine Vector.ext fun k hk => ?_
    rw [getElem_storeBase]
    refine Eq.trans ?_ (base ⟨k, hk⟩).symm
    simp
  rw [TierPrices.store, same]

/-- The base prices written read back as they were carried. -/
theorem TierPrices.itemBytes_base (old : TierPrices) {start : Byte} {values : List Half} (fits : start.toNat + values.length ≤ 16) :
    (old.store (.base start.toNat (values.map (·.toNat)))).itemBytes (.base start.toNat (values.map (·.toNat))) =
      start :: values.flatMap (fun v => be2 v.toNat) := by
  rw [TierPrices.itemBytes, be1_byte, List.singleton_append, List.length_map]
  congr 1
  have stored (i : Nat) (hi : i < values.length) :
      (storeBase old.base start.toNat (values.map (·.toNat)))[start.toNat + i]?.getD 0 = values[i].toNat := by
    rw [Vector.getElem?_eq_getElem (by omega), Option.getD_some, getElem_storeBase, dif_pos (by simp; omega), List.getElem_map]
    congr 2
    omega
  rw [List.flatMap_def, List.flatMap_def]
  congr 1
  refine List.ext_getElem (by simp) fun i hi _ => ?_
  have inside : i < values.length := by simpa using hi
  rw [List.getElem_map, List.getElem_map, List.getElem_range]
  exact congrArg be2 (stored i inside)

/-! ### The branches of PRICE_WRITE -/

theorem State.writable_eq_true {s : State} {name : BankName} (free : ¬ (s.active = some name ∨ (s.bank name).users ≠ 0)) :
    s.writable name = true := by
  obtain ⟨other, unused⟩ := not_or.1 free
  simp [State.writable, other, not_not.1 unused]

@[simp] theorem State.handOn_writable (s : State) (link : Link) (name : BankName) :
    (s.handOn link).writable name = s.writable name := by
  rw [State.writable, State.handOn_active, State.handOn_bank, State.writable]

section Write
variable {s : State} {f : PriceWriteFields}

theorem takePriceWrite_badBank (unnamed : readBank f.bank = none) : takePriceWrite f s = (s, ⟨.badValue, []⟩) := by
  unfold takePriceWrite
  rw [unnamed]
  rfl

theorem takePriceWrite_badTier (untiered : readTier f.tier = none) : takePriceWrite f s = (s, ⟨.badValue, []⟩) := by
  unfold takePriceWrite
  rw [untiered]
  cases readBank f.bank <;> rfl

theorem takePriceWrite_badItem (unread : readItem f.item f.values = none) : takePriceWrite f s = (s, ⟨.badValue, []⟩) := by
  unfold takePriceWrite
  rw [unread]
  cases readBank f.bank <;> cases readTier f.tier <;> rfl

variable {name : BankName} {tier : Tier} {item : PriceItem} (named : readBank f.bank = some name) (inTier : readTier f.tier = some tier)
  (read : readItem f.item f.values = some item)
include named inTier read

theorem takePriceWrite_busy (busy : s.writable name = false) : takePriceWrite f s = (s, ⟨.bankBusy, []⟩) := by
  unfold takePriceWrite
  rw [named, inTier, read]
  exact if_pos busy

theorem takePriceWrite_stored (free : s.writable name = true) :
    takePriceWrite f s =
      (s.setBank name ((s.bank name).store tier item), ⟨.ok, ((s.bank name).tiers[tier].store item).itemBytes item⟩) := by
  unfold takePriceWrite
  rw [named, inTier, read]
  exact if_neg (by simp [free])

end Write

/-- A PRICE_WRITE of a right length on the M-link is answered with what the price banks block takes of it (R156). -/
theorem exec_priceWrite {s t : State} {f : PriceWriteFields} {r : Response} (heard : s.deaf .m = false)
    (sized : priceWriteLengthOk f.values.length = true) (took : takePriceWrite f (s.handOn .m) = (t, r)) :
    exec (.priceWrite .m (.of f)) s = .next (t.respond .m r) := by
  have whole : bodyIf (fun f => priceWriteLengthOk f.values.length) (.of f) = .of f := if_pos sized
  have answered := request_answered (code := 0x48) rfl heard took
  rw [← whole] at answered
  exact answered

/-- Settles O40: the fields in their order, the banks that may not be written, and each item stored and read back. -/
theorem priceWriteStores : Obligations.PriceWriteStores := by
  unfold Obligations.PriceWriteStores
  intro s f heard sized h answered
  have taken {t : State} {r : Response} (took : takePriceWrite f h = (t, r)) : answered t r := exec_priceWrite heard sized took
  refine ⟨fun notA notB => taken (takePriceWrite_badBank (readBank_none notA notB)),
    fun high => taken (takePriceWrite_badTier (readTier_none high)),
    fun notBase notBack notBreaks => taken (takePriceWrite_badItem (readItem_unlisted notBase notBack notBreaks)), ?named⟩
  intro name tier isBank isTier bank busy stored
  have unread (none_ : readItem f.item f.values = none) : answered h ⟨.badValue, []⟩ := taken (takePriceWrite_badItem none_)
  have written {item : PriceItem} (read : readItem f.item f.values = some item) :
      (busy → answered h ⟨.bankBusy, []⟩) ∧
        (¬ busy → answered (stored (bank.tiers[tier].store item)) ⟨.ok, (bank.tiers[tier].store item).itemBytes item⟩) := by
    have named := readBank_some isBank
    have inTier := readTier_some isTier
    refine ⟨fun inUse => taken (takePriceWrite_busy named inTier read ?_), fun free => ?_⟩
    · exact (s.handOn_writable .m name).trans (State.writable_not inUse)
    · have took := takePriceWrite_stored named inTier read ((s.handOn_writable .m name).trans (State.writable_eq_true free))
      rw [State.setBank, Bank.store, State.handOn_bank, State.handOn_bankA, State.handOn_bankB] at took
      exact taken took
  refine ⟨?base, ?back, ?breaks, fun isBase even => unread (readItem_base_even isBase even),
    fun isBack length => unread (readItem_back_length isBack length),
    fun isBreaks length => unread (readItem_breaks_length isBreaks length)⟩
  case base =>
    intro start values isBase carried
    have read := readItem_base (item := f.item) (start := start) (values := values) isBase
    rw [← carried] at read
    refine ⟨fun bad => unread (read.trans (if_neg ?_)), fun low some_ fits => ?_⟩
    · rintro ⟨low, some_, fits⟩
      rcases bad with high | empty | long
      · omega
      · simp [empty] at some_
      · omega
    · obtain ⟨whenBusy, whenFree⟩ := written (read.trans (if_pos ⟨low, List.length_pos_iff.2 some_, fits⟩))
      refine ⟨whenBusy, fun free prices back breaks base => ?_⟩
      have done_ := whenFree free
      rw [TierPrices.itemBytes_base _ fits, TierPrices.store_base_eq back breaks base, ← carried] at done_
      exact done_
  case back =>
    intro percent isBack carried
    exact written (item := .back percent.toNat) (by rw [carried, readItem_back isBack])
  case breaks =>
    intro t1 d1 t2 d2 t3 d3 t4 d4 isBreaks carried clamped
    have read := readItem_breaks (item := f.item) (t1 := t1) (d1 := d1) (t2 := t2) (d2 := d2) (t3 := t3) (d3 := d3) (t4 := t4)
      (d4 := d4) isBreaks
    rw [← carried] at read
    refine ⟨fun bad => unread (read.trans (if_neg (by omega))), fun l1 l2 l3 l4 => ?_⟩
    obtain ⟨whenBusy, whenFree⟩ := written (read.trans (if_pos ⟨l1, l2, l3, l4⟩))
    refine ⟨whenBusy, fun free => ?_⟩
    have done_ := whenFree free
    simp only [TierPrices.itemBytes, TierPrices.store, Break.clamp] at done_
    simpa using done_

end Sys2Proof.Machine

/-! PROOF. The referral queue (R120 to R129): REFERRAL_FETCH, REFERRAL_LIST, the replies and the timeouts. -/

namespace Sys2Proof.Machine

/-! ### Fetching (R123) -/

theorem takeReferralFetch_none {s : State} (waiting : s.oldestWaiting = none) : takeReferralFetch () s = (s, ⟨.none, []⟩) := by
  unfold takeReferralFetch
  rw [waiting]
  rfl

theorem takeReferralFetch_some {s : State} {r : Referral} (waiting : s.oldestWaiting = some r) :
    takeReferralFetch () s =
      (s.markFetched r.id, ⟨.ok, ({ r with state := .fetched : Referral }).bytes ++ s.topupBytes r⟩) := by
  unfold takeReferralFetch
  rw [waiting]
  rfl

theorem State.oldestWaiting_none {s : State} (none_ : ∀ r ∈ s.referrals, r.state ≠ .waiting) : s.oldestWaiting = none :=
  List.find?_eq_none.2 fun r hr waits => none_ r hr (beq_iff_eq.1 waits)

theorem State.oldestWaiting_some {s : State} {before rest : List Referral} {r : Referral} (queue : s.referrals = before ++ r :: rest)
    (earlier : ∀ x ∈ before, x.state ≠ .waiting) (waiting : r.state = .waiting) : s.oldestWaiting = some r := by
  have notBefore : before.find? (fun x => x.state == .waiting) = none :=
    List.find?_eq_none.2 fun x hx waits => earlier x hx (beq_iff_eq.1 waits)
  rw [State.oldestWaiting, queue, List.find?_append, notBefore, Option.none_or, List.find?_cons_of_pos (by simp [waiting])]

/-- Where no two referrals hold one id, a change by id changes one referral. -/
theorem map_atId {before rest : List Referral} {r : Referral} (g : Referral → Referral)
    (nodup : ((before ++ r :: rest).map (·.id)).Nodup) :
    (before ++ r :: rest).map (fun x => if x.id = r.id then g x else x) = before ++ g r :: rest := by
  rw [List.map_append, List.map_cons, List.nodup_append] at nodup
  obtain ⟨-, tail, apart⟩ := nodup
  obtain ⟨notAfter, -⟩ := List.nodup_cons.1 tail
  have same {queue : List Referral} (others : ∀ x ∈ queue, x.id ≠ r.id) :
      queue.map (fun x => if x.id = r.id then g x else x) = queue :=
    (List.map_congr_left fun x hx => if_neg (others x hx)).trans (List.map_id' queue)
  rw [List.map_append, List.map_cons, if_pos rfl,
    same fun x hx => apart x.id (List.mem_map_of_mem hx) r.id List.mem_cons_self,
    same fun x hx is => notAfter (is ▸ List.mem_map_of_mem hx)]

theorem State.topupBytes_opening (s : State) {r : Referral} (opening : r.kind = .opening) : s.topupBytes r = [] :=
  if_neg (by simp [opening])

theorem State.creditOf_mirror (s : State) (n : Word) : s.creditOf .mirror n = (s.mirrorOf n).map (·.credit) := rfl

theorem State.topupBytes_topup {s : State} {r : Referral} {m : Mirror} (topup : r.kind = .topup)
    (found : s.mirrorOf r.account = some m) :
    s.topupBytes r = be4s m.credit.balance ++ be4 m.credit.held ++ be1 m.credit.runList.length := by
  rw [State.topupBytes, if_pos topup, State.creditOf_mirror, found]
  rfl

/-- Settles O43: the oldest WAITING referral, its mark and its image. -/
theorem referralFetchMarks : Obligations.ReferralFetchMarks := by
  unfold Obligations.ReferralFetchMarks
  intro s heard h
  refine ⟨fun none_ => request_answered rfl heard (takeReferralFetch_none (State.oldestWaiting_none (by simpa [h] using none_))), ?_⟩
  intro before rest r queue earlier waiting nodup image marked
  have queueThen : h.referrals = before ++ r :: rest := (s.handOn_referrals .m).trans queue
  have isMarked : h.markFetched r.id = marked := by
    rw [queue] at nodup
    rw [State.markFetched, queueThen, map_atId _ nodup]
  have isImage : ({ r with state := .fetched : Referral }).bytes = image := rfl
  have took := takeReferralFetch_some (State.oldestWaiting_some queueThen earlier waiting)
  rw [isMarked, isImage] at took
  refine ⟨fun opening => ?_, fun m topup found => ?_⟩
  · rw [h.topupBytes_opening opening, List.append_nil] at took
    exact request_answered rfl heard took
  · rw [State.topupBytes_topup topup ((s.handOn_mirrorOf .m r.account).trans found), ← List.append_assoc, ← List.append_assoc] at took
    exact request_answered rfl heard took

/-! ### The decision of a reply (R125, checks 1 and 2) -/

section ReadDecision
variable {f : ReferralReplyFields}

theorem readDecision_none
    (bad : f.id.toNat = 0 ∨ (f.decision.toNat ≠ 1 ∧ f.decision.toNat ≠ 2) ∨
      (f.decision.toNat = 1 ∧ (f.amount.toNat = 0 ∨ 1000000 < f.amount.toNat ∨ 3 < f.tier.toNat))) : readDecision f = none := by
  unfold readDecision
  split
  case isTrue => rfl
  case isFalse named =>
    rcases bad with zero | ⟨notGrant, notDeny⟩ | ⟨grant, fields⟩
    · exact absurd (BitVec.eq_of_toNat_eq zero) named
    · rw [if_neg fun h => notGrant (by rw [h]; rfl), if_neg fun h => notDeny (by rw [h]; rfl)]
    · rw [if_pos (BitVec.eq_of_toNat_eq grant)]
      rcases fields with none_ | above | high
      · rw [if_pos (.inl none_)]
      · exact if_pos (.inr above)
      · rw [readTier_none high]
        exact ite_self _

variable (named : f.id.toNat ≠ 0)
include named

theorem readDecision_deny (deny : f.decision.toNat = 2) : readDecision f = some .deny := by
  rw [readDecision, if_neg fun h => named (by rw [h]; rfl), show f.decision = 2 from BitVec.eq_of_toNat_eq deny]
  rfl

theorem readDecision_grant {tier : Tier} (grant : f.decision.toNat = 1) (some_ : 1 ≤ f.amount.toNat) (atMost : f.amount.toNat ≤ 1000000)
    (inTier : f.tier.toNat = tier.val) : readDecision f = some (.grant f.amount.toNat tier) := by
  have inRange : ¬ (f.amount.toNat = 0 ∨ Config.grantMax < f.amount.toNat) := by
    simp only [Config.grantMax]
    omega
  rw [readDecision, if_neg fun h => named (by rw [h]; rfl), if_pos (BitVec.eq_of_toNat_eq grant), if_neg inRange, readTier_some inTier]
  rfl

end ReadDecision

/-! ### What a reply does (R126, R127) -/

theorem takeReferralReply_badValue {f : ReferralReplyFields} (s : State) (unread : readDecision f = none) :
    takeReferralReply f s = (s, ⟨.badValue, []⟩) := by
  unfold takeReferralReply
  rw [unread]
  rfl

theorem takeReferralReply_tooLate {f : ReferralReplyFields} {s : State} {d : Decision} (read : readDecision f = some d)
    (gone : s.referrals.find? (fun x => x.id == f.id.toNat) = none) : takeReferralReply f s = (s, ⟨.tooLate, []⟩) := by
  unfold takeReferralReply
  rw [read]
  simp only [gone]
  rfl

theorem takeReferralReply_taken {f : ReferralReplyFields} {s : State} {d : Decision} {r : Referral} (read : readDecision f = some d)
    (found : s.referrals.find? (fun x => x.id == f.id.toNat) = some r) :
    takeReferralReply f s =
      (s.reply r d,
        ⟨.ok, be1 r.id ++ be1 r.kind.code ++ be1 r.station.val ++ be4 r.account.toNat ++ be1 d.code ++
          be4s ((s.reply r d).balanceAfter r d)⟩) := by
  unfold takeReferralReply
  rw [read]
  simp only [found]
  rfl

section Reply
variable {s : State} {r : Referral}

theorem State.reply_openGrant {j : Job} {amount : Nat} {tier : Tier} (opening : r.kind = .opening) (run : s.job r.station = some j) :
    s.reply r (.grant amount tier) = ((s.removeReferral r.id).activateMirror r.account amount tier).grantRun r.station j tier := by
  have runThen : (s.removeReferral r.id).job r.station = some j := run
  rw [State.reply, opening]
  simp only [State.replyOpen, runThen]

theorem State.reply_openDeny {j : Job} (opening : r.kind = .opening) (run : s.job r.station = some j) :
    s.reply r .deny = (s.removeReferral r.id).returnJob r.station j .denied := by
  have runThen : (s.removeReferral r.id).job r.station = some j := run
  rw [State.reply, opening]
  simp only [State.replyOpen, runThen]

theorem State.reply_topup (d : Decision) (topup : r.kind = .topup) : s.reply r d = (s.removeReferral r.id).replyTopup r d := by
  rw [State.reply, topup]

/-- The balance in an answer to a GRANT is that of the mirror after it. -/
theorem State.balanceAfter_grant {m : Mirror} (amount : Nat) (tier : Tier) (found : s.mirrorOf r.account = some m) :
    s.balanceAfter r (.grant amount tier) = m.credit.balance := by
  rw [State.balanceAfter, State.creditOf_mirror, found]
  rfl

theorem State.mirrorOf_activateMirror {n : Word} {m : Mirror} (amount : Nat) (tier : Tier) (found : s.mirrorOf n = some m) :
    (s.activateMirror n amount tier).mirrorOf n =
      some { m with state := .active, tier := tier, credit := { m.credit with balance := amount } } := by
  have changed := find_map_keepsNumber Mirror.number
    (g := fun x => if x.number = n then { x with state := .active, tier := tier, credit := { x.credit with balance := amount } } else x)
    (fun x => by split <;> rfl) n s.mirrors
  rw [State.mirrorOf, State.activateMirror, changed]
  rw [State.mirrorOf] at found
  rw [found, Option.map_some, if_pos (State.mirrorOf_number found)]

theorem State.mirrorOf_raise {n : Word} {m : Mirror} (amount : Nat) (found : s.mirrorOf n = some m) :
    (s.mapCredit .mirror n (Credit.raise amount)).mirrorOf n = some { m with credit := m.credit.raise amount } := by
  rw [State.mirrorOf_mapCredit, found, Option.map_some, if_pos (State.mirrorOf_number found)]

end Reply

/-! ### Timeouts (R128) -/

section Timeout
variable {s : State} {id : Nat}

theorem onReferralTimeout_gone (gone : s.referrals.find? (fun x => x.id == id) = none) : onReferralTimeout id s = s := by
  unfold onReferralTimeout
  rw [gone]

variable {r : Referral} (found : s.referrals.find? (fun x => x.id == id) = some r)
include found

theorem onReferralTimeout_running (running : r.timeout ≠ 0) : onReferralTimeout id s = s := by
  unfold onReferralTimeout
  rw [found]
  exact if_neg running

theorem onReferralTimeout_due (due : r.timeout = 0) : onReferralTimeout id s = (s.removeReferral id).timeOut r := by
  unfold onReferralTimeout
  rw [found]
  exact if_pos due

end Timeout

theorem State.timeOut_opening {s : State} {r : Referral} {j : Job} (opening : r.kind = .opening) (run : s.job r.station = some j) :
    s.timeOut r = s.returnJob r.station j .timedOut := by
  unfold State.timeOut
  rw [opening]
  simp only [run]

theorem State.timeOut_topup {s : State} {r : Referral} (topup : r.kind = .topup) : s.timeOut r = s := by
  unfold State.timeOut
  rw [topup]

theorem find_id_none {queue : List Referral} {id : Nat} (others : ∀ r ∈ queue, r.id ≠ id) : queue.find? (fun x => x.id == id) = none :=
  List.find?_eq_none.2 fun r hr is => others r hr (beq_iff_eq.1 is)

/-- Settles O45: the refusals of a reply, what each decision does, and what a timeout does. -/
theorem referralRepliesAndTimeouts : Obligations.ReferralRepliesAndTimeouts := by
  unfold Obligations.ReferralRepliesAndTimeouts
  refine ⟨?reply, ?timeout⟩
  case reply =>
    intro s f heard h answered grant deny
    have taken {t : State} {r : Response} (took : takeReferralReply f h = (t, r)) : answered t r := request_answered rfl heard took
    refine ⟨fun bad => taken (takeReferralReply_badValue h (readDecision_none ?_)), fun named good => ⟨fun gone => ?tooLate, ?taken⟩⟩
    · rcases bad with zero | decision | fields
      · exact .inl zero
      · exact .inr (.inl decision)
      · exact .inr (.inr fields)
    case tooLate =>
      have goneThen : h.referrals.find? (fun x => x.id == f.id.toNat) = none := by
        rw [State.handOn_referrals]
        exact find_id_none gone
      rcases good with isDeny | ⟨isGrant, some_, atMost, inTier⟩
      · exact taken (takeReferralReply_tooLate (readDecision_deny named isDeny) goneThen)
      · exact taken (takeReferralReply_tooLate
          (readDecision_grant (tier := ⟨f.tier.toNat, by omega⟩) named isGrant some_ atMost rfl) goneThen)
    case taken =>
      intro r found removed head
      have foundThen : h.referrals.find? (fun x => x.id == f.id.toNat) = some r := by rwa [State.handOn_referrals]
      have isRemoved : h.removeReferral r.id = removed := by rw [State.removeReferral, State.handOn_referrals]
      have bounds (isGrant : grant) : 1 ≤ f.amount.toNat ∧ f.amount.toNat ≤ 1000000 ∧ f.tier.toNat ≤ 3 := by
        rcases good with isDeny | ⟨-, fields⟩
        · exact absurd (isGrant.symm.trans isDeny) (by decide)
        · exact fields
      have denied (isDeny : deny) : answered (h.reply r .deny) ⟨.ok, head ++ be1 2 ++ be4s 0⟩ :=
        taken (takeReferralReply_taken (readDecision_deny named isDeny) foundThen)
      have granted {tier : Tier} {m : Mirror} (isGrant : grant) (inTier : f.tier.toNat = tier.val)
          (mirror : (h.reply r (.grant f.amount.toNat tier)).mirrorOf r.account = some m) :
          answered (h.reply r (.grant f.amount.toNat tier)) ⟨.ok, head ++ be1 1 ++ be4s m.credit.balance⟩ := by
        obtain ⟨some_, atMost, -⟩ := bounds isGrant
        have took := takeReferralReply_taken (readDecision_grant named isGrant some_ atMost inTier) foundThen
        rw [State.balanceAfter_grant _ _ mirror] at took
        exact taken took
      have runThen {j : Job} (run : s.job r.station = some j) : h.job r.station = some j := (s.handOn_job .m r.station).trans run
      have mirrorThen {m : Mirror} (mirror : s.mirrorOf r.account = some m) : removed.mirrorOf r.account = some m :=
        (s.handOn_mirrorOf .m r.account).trans mirror
      refine ⟨fun j m tier opening isGrant run mirror inTier => ?openGrant, fun j opening isDeny run => ?openDeny,
        fun m topup isGrant mirror => ?topupGrant, fun topup isDeny => ?topupDeny⟩
      case openGrant =>
        have reply := State.reply_openGrant (amount := f.amount.toNat) (tier := tier) opening (runThen run)
        rw [isRemoved] at reply
        have answer := granted isGrant inTier (by rw [reply]; exact State.mirrorOf_activateMirror _ tier (mirrorThen mirror))
        rw [reply, State.activateMirror, State.grantRun, State.setRun] at answer
        exact answer
      case openDeny =>
        have answer := denied isDeny
        rw [State.reply_openDeny opening (runThen run), isRemoved] at answer
        exact answer
      case topupGrant =>
        obtain ⟨-, -, inTier⟩ := bounds isGrant
        have reply := State.reply_topup (s := h) (.grant f.amount.toNat ⟨f.tier.toNat, by omega⟩) topup
        rw [isRemoved] at reply
        have answer := granted isGrant rfl (by rw [reply]; exact State.mirrorOf_raise _ (mirrorThen mirror))
        rw [reply, State.replyTopup, State.mapCredit] at answer
        exact answer
      case topupDeny =>
        have answer := denied isDeny
        rw [State.reply_topup _ topup, isRemoved] at answer
        exact answer
  case timeout =>
    intro s id
    refine ⟨fun gone => congrArg Host.Outcome.next (onReferralTimeout_gone (find_id_none gone)), ?_⟩
    intro r found removed
    refine ⟨fun running => congrArg Host.Outcome.next (onReferralTimeout_running found running), fun j due opening run => ?opening,
      fun due topup => ?topup⟩
    case opening =>
      exact congrArg Host.Outcome.next ((onReferralTimeout_due found due).trans (State.timeOut_opening opening run))
    case topup => exact congrArg Host.Outcome.next ((onReferralTimeout_due found due).trans (State.timeOut_topup topup))

end Sys2Proof.Machine

/-! PROOF. The settlement log (R132 to R144): the records that one LOG_READ carries, the images of the five kinds of record, LOG_RELEASE
and LOG_STATUS. -/

namespace Sys2Proof.Machine

/-! ### LOG_READ (R141) -/

/-- The records that fit are the longest head of the log that keeps to both bounds. -/
theorem recordsThatFit_eq {carried rest : List LogRecord} {count room : Nat} (few : carried.length ≤ count)
    (small : (carried.flatMap LogRecord.bytes).length ≤ room)
    (longest : ∀ r, rest.head? = some r → carried.length = count ∨ room < ((carried ++ [r]).flatMap LogRecord.bytes).length) :
    recordsThatFit count room (carried ++ rest) = carried := by
  induction carried generalizing count room with
  | nil =>
    cases rest with
    | nil => cases count <;> rfl
    | cons r rest =>
      cases count with
      | zero => rfl
      | succ count =>
        have big : room < r.bytes.length := by simpa using longest r rfl
        exact if_neg (Nat.not_le.2 big)
  | cons r carried ih =>
    obtain ⟨count, rfl⟩ : ∃ n, count = n + 1 := ⟨count - 1, by rw [List.length_cons] at few; omega⟩
    rw [List.flatMap_cons, List.length_append] at small
    rw [List.cons_append, recordsThatFit, if_pos (by omega)]
    rw [ih (by simpa using few) (by omega) fun x hx => ?_]
    rcases longest x hx with full | big
    · exact .inl (by simpa using full)
    · rw [List.cons_append, List.flatMap_cons, List.length_append] at big
      exact .inr (by omega)

theorem takeLogRead_empty {s : State} (empty : s.log = []) : takeLogRead () s = (s, ⟨.empty, []⟩) :=
  if_pos (List.isEmpty_iff.2 empty)

theorem takeLogRead_carried {s : State} {carried : List LogRecord} (some_ : s.log ≠ [])
    (fits : recordsThatFit 4 119 s.log = carried) :
    takeLogRead () s = (s, ⟨.ok, be1 carried.length ++ carried.flatMap LogRecord.bytes⟩) := by
  have head : s.logHead = carried := fits
  rw [takeLogRead, if_neg (by simpa using some_), head]
  rfl

/-! ### Images (section 9.4) -/

@[simp] theorem length_be1 (n : Nat) : (be1 n).length = 1 := rfl
@[simp] theorem length_be2 (n : Nat) : (be2 n).length = 2 := rfl
@[simp] theorem length_be4 (n : Nat) : (be4 n).length = 4 := rfl
@[simp] theorem length_be4s (i : Int) : (be4s i).length = 4 := rfl

theorem Auth.bytes_length (a : Auth) : a.bytes.length = 13 := rfl

theorem length_auths (auths : List Auth) : (auths.flatMap Auth.bytes).length = 13 * auths.length := by
  rw [List.length_flatMap, List.map_congr_left fun a _ => a.bytes_length, List.map_const', List.sum_replicate, smul_eq_mul, Nat.mul_comm]

/-- An image by its kind: 32, 20, 10 + 13 × k, 15 and 6 bytes. -/
theorem LogRecord.bytes_length (r : LogRecord) :
    r.bytes.length =
      match r.entry with
      | .runClose _ => 32
      | .runInterim _ => 20
      | .session e => 10 + 13 * e.auths.length
      | .adjust _ _ _ => 15
      | .swap _ _ => 6 := by
  obtain ⟨seq, entry⟩ := r
  cases entry with
  | session e =>
    simp only [LogRecord.bytes, List.length_append, length_auths, length_be1, length_be2, length_be4]
  | runClose | runInterim | adjust | swap => rfl

/-- With at most three authorizations no image is longer than that of a SESSION record with three. -/
theorem LogRecord.bytes_length_le {r : LogRecord} (few : ∀ e, r.entry = .session e → e.auths.length ≤ 3) : r.bytes.length ≤ 49 := by
  rw [r.bytes_length]
  split
  case h_3 e is =>
    have := few e is
    omega
  all_goals decide

theorem LogRecord.bytes_runClose (seq : Nat) (e : RunCloseEntry) :
    ({ seq := seq, entry := .runClose e } : LogRecord).bytes =
      be1 1 ++ be2 seq ++
        (be1 e.station.val ++ be4 e.account.toNat ++ be1 e.slot.code ++ be1 e.tier.val ++ be2 e.generation ++ be1 e.reason.code ++
          be2 e.delivered ++ be2 e.credited ++ be2 e.disputed ++ be1 e.jams ++ be4 e.charge ++ be4 e.settled ++ be4 e.final) := by
  simp only [LogRecord.bytes, List.append_assoc]

theorem LogRecord.bytes_runInterim (seq : Nat) (e : RunInterimEntry) :
    ({ seq := seq, entry := .runInterim e } : LogRecord).bytes =
      be1 2 ++ be2 seq ++
        (be1 e.station.val ++ be4 e.account.toNat ++ be2 e.delivered ++ be4 e.amount ++ be4 e.settled ++ be2 e.generation) := by
  simp only [LogRecord.bytes, List.append_assoc]

theorem LogRecord.bytes_session (seq : Nat) (e : SessionEntry) :
    ({ seq := seq, entry := .session e } : LogRecord).bytes =
      be1 3 ++ be2 seq ++
        (be1 e.station.val ++ be1 e.tier.val ++ be1 e.auths.length ++ be4 e.spent ++ e.auths.flatMap Auth.bytes) := by
  simp only [LogRecord.bytes, List.append_assoc]

/-! ### LOG_RELEASE (R142) -/

theorem releaseThrough_none {log : List LogRecord} {seq : Nat} (others : ∀ r ∈ log, r.seq ≠ seq) : releaseThrough seq log = none := by
  induction log with
  | nil => rfl
  | cons r rest ih =>
    rw [releaseThrough, if_neg (others r List.mem_cons_self)]
    exact ih fun x hx => others x (List.mem_cons_of_mem r hx)

theorem releaseThrough_some {before rest : List LogRecord} {r : LogRecord} {seq : Nat} (is : r.seq = seq)
    (others : ∀ x ∈ before, x.seq ≠ seq) : releaseThrough seq (before ++ r :: rest) = some rest := by
  induction before with
  | nil => exact if_pos is
  | cons x before ih =>
    rw [List.cons_append, releaseThrough, if_neg (others x List.mem_cons_self)]
    exact ih fun y hy => others y (List.mem_cons_of_mem x hy)

theorem takeLogRelease_notFound {seq : Half} {s : State} (none_ : releaseThrough seq.toNat s.log = none) :
    takeLogRelease seq s = (s, ⟨.notFound, []⟩) := by
  unfold takeLogRelease
  rw [none_]
  rfl

theorem takeLogRelease_released {seq : Half} {s : State} {rest : List LogRecord} (left : releaseThrough seq.toNat s.log = some rest) :
    takeLogRelease seq s =
      ({ s with log := rest }, ⟨.ok, be2 (s.log.length - rest.length) ++ be2 rest.length ++ be2 (headSeq rest)⟩) := by
  unfold takeLogRelease
  rw [left]
  rfl

/-! ### LOG_STATUS (R143) -/

/-- The values of the eight stations, in their order. -/
theorem toList_stations {α : Type} (v : Vector α 8) : v.toList = allStations.map (fun st => v[st]) := by
  have stations : allStations = List.finRange 8 := by decide
  rw [stations]
  exact List.ext_getElem (by simp) fun i _ _ => by simp

theorem countP_stations {α : Type} (v : Vector α 8) (p : α → Bool) :
    v.toList.countP p = allStations.countP (fun st => p v[st]) := by
  rw [toList_stations, List.countP_map]
  rfl

theorem State.openRuns_eq (s : State) : s.openRuns = allStations.countP (fun st => (s.job st).isSome) :=
  countP_stations s.runs _

theorem State.openSessions_eq (s : State) : s.openSessions = allStations.countP (fun st => s.sessions[st].isSome) :=
  countP_stations s.sessions _

/-- The four level conditions in one byte (R144). -/
theorem State.logLevels_eq (s : State) :
    memberBits [s.isLive .logNonempty, s.isLive .logQ1, s.isLive .logQ2, s.isLive .logQ3] =
      (if 1 ≤ s.log.length then 1 else 0) + (if 64 ≤ s.log.length then 2 else 0) + (if 128 ≤ s.log.length then 4 else 0) +
        (if 192 ≤ s.log.length then 8 else 0) := by
  simp only [memberBits, flag, State.isLive, decide_eq_true_eq]
  split <;> split <;> split <;> split <;> rfl

theorem headSeq_eq (log : List LogRecord) : headSeq log = match log.head? with | none => 0 | some r => r.seq := by
  cases log <;> rfl

theorem tailSeq_eq (log : List LogRecord) : tailSeq log = match log.getLast? with | none => 0 | some r => r.seq := by
  unfold tailSeq
  cases log.getLast? <;> rfl

theorem State.handOn_logStatusBody (s : State) (link : Link) : (s.handOn link).logStatusBody = s.logStatusBody := by
  simp only [State.logStatusBody, State.freeSpace, State.openRuns, State.openSessions, State.isLive, State.handOn_log,
    State.handOn_reserved, State.handOn_runs, State.handOn_sessions, State.handOn_logNext]

/-- Settles O46: what LOG_READ carries, the images, what LOG_RELEASE removes, and the answer of LOG_STATUS. -/
theorem logReadReleaseAndStatus : Obligations.LogReadReleaseAndStatus := by
  unfold Obligations.LogReadReleaseAndStatus
  refine ⟨fun s heard => ⟨fun empty => ?empty, fun carried rest log some_ few small longest => ?carried, fun r few =>
    LogRecord.bytes_length_le few⟩, fun seq => ?images, fun s heard => ⟨fun seq => ⟨fun others => ?notFound,
    fun before rest r log is others => ?released⟩, ?status⟩⟩
  case empty => exact request_answered rfl heard (takeLogRead_empty (by rwa [State.handOn_log]))
  case carried =>
    refine request_answered rfl heard (takeLogRead_carried (by rwa [State.handOn_log]) ?_)
    rw [State.handOn_log, log]
    exact recordsThatFit_eq few small longest
  case images =>
    have length (entry : LogEntry) := LogRecord.bytes_length { seq := seq, entry := entry }
    exact ⟨fun e => ⟨LogRecord.bytes_runClose seq e, length (.runClose e)⟩,
      fun e => ⟨LogRecord.bytes_runInterim seq e, length (.runInterim e)⟩,
      fun e => ⟨LogRecord.bytes_session seq e, length (.session e)⟩, fun _ _ _ => ⟨rfl, rfl⟩, fun _ _ => ⟨rfl, rfl⟩⟩
  case notFound =>
    exact request_answered rfl heard (takeLogRelease_notFound (by rw [State.handOn_log]; exact releaseThrough_none others))
  case released =>
    have took := takeLogRelease_released (seq := seq) (s := s.handOn .m) (rest := rest)
      (by rw [State.handOn_log, log]; exact releaseThrough_some is others)
    have removed : s.log.length - rest.length = before.length + 1 := by
      rw [log, List.length_append, List.length_cons]
      omega
    rw [State.handOn_log, removed, headSeq_eq] at took
    exact request_answered rfl heard took
  case status =>
    have took : takeLogStatus () (s.handOn .m) = (s.handOn .m, ⟨.ok, (s.handOn .m).logStatusBody⟩) := rfl
    rw [State.handOn_logStatusBody, State.logStatusBody, State.openRuns_eq, State.openSessions_eq, State.logLevels_eq, headSeq_eq,
      tailSeq_eq] at took
    exact request_answered rfl heard took

end Sys2Proof.Machine

/-! PROOF. The links' counters and the stations (R158, R161, R162, R165): LINK_STATS, the six actions of STATION_SET and STATION_READ. -/

namespace Sys2Proof.Machine

/-! ### LINK_STATS (R158) -/

section LinkStats
variable {f : LinkStatsFields}

theorem readLink_some {link : Link}
    (names : (∃ n : Station, link = .c n ∧ f.link.toNat = n.val) ∨ (link = .p ∧ f.link = 0x20) ∨ (link = .m ∧ f.link = 0x30)) :
    readLink f.link = some link := by
  unfold readLink
  rcases names with ⟨n, rfl, number⟩ | ⟨rfl, address⟩ | ⟨rfl, address⟩
  · rw [readStation_some number]
  · rw [address]
    rfl
  · rw [address]
    rfl

theorem readLink_none (noStation : 7 < f.link.toNat) (notP : f.link ≠ 0x20) (notM : f.link ≠ 0x30) : readLink f.link = none := by
  unfold readLink
  rw [readStation_none noStation]
  exact (if_neg notP).trans (if_neg notM)

theorem takeLinkStats_badValue (s : State) (unread : readLink f.link = none) : takeLinkStats f s = (s, ⟨.badValue, []⟩) := by
  unfold takeLinkStats
  rw [unread]
  rfl

theorem takeLinkStats_read {link : Link} (s : State) (read : readLink f.link = some link) (keep : f.clear = 0) :
    takeLinkStats f s = (s, ⟨.ok, s.linkBody link⟩) := by
  unfold takeLinkStats
  rw [read]
  simp only [keep, ne_eq, not_true_eq_false, if_false]
  rfl

theorem takeLinkStats_cleared {link : Link} (s : State) (read : readLink f.link = some link) (clear : f.clear ≠ 0) :
    takeLinkStats f s = (s.clearLink link, ⟨.ok, s.linkBody link⟩) := by
  unfold takeLinkStats
  rw [read]
  simp only [if_pos clear]
  rfl

end LinkStats

/-- Settles O48: the links an address names, the counters as they stood, and the clear flag. -/
theorem linkStatsAnswers : Obligations.LinkStatsAnswers := by
  unfold Obligations.LinkStatsAnswers
  intro s f heard h
  refine ⟨fun ⟨noStation, notP, notM⟩ => request_answered rfl heard (takeLinkStats_badValue h (readLink_none noStation notP notM)), ?_⟩
  intro link names violation answer cleared
  have read := readLink_some names
  have sameViolation : violationBytes s.io.lastViolation = violation := by
    simp only [violation]
    cases s.io.lastViolation <;> rfl
  have body : h.linkBody link = answer.body := by
    rw [State.linkBody, show h.io.lastViolation = s.io.lastViolation from rfl, sameViolation]
  refine ⟨fun keep => ?_, fun clear => ?_⟩
  · have took := takeLinkStats_read h read keep
    rw [body] at took
    exact request_answered rfl heard took
  · have took := takeLinkStats_cleared h read clear
    rw [body] at took
    exact request_answered rfl heard took

/-! ### A station record and its answer (R161) -/

theorem StationRecord.withFlags_eq (r : StationRecord) (flags : Option Byte) :
    r.withFlags flags =
      { r with
        flags := match flags with
          | none => r.flags
          | some x => { accountRuns := x.getLsbD 0, cardRuns := x.getLsbD 1, remoteRuns := x.getLsbD 2 } } := by
  cases flags <;> rfl

theorem priorCode_eq (prior : Option PriorState) :
    codeOr0 PriorState.code prior = match prior with | none => 0 | some .enabled => 1 | some .draining => 2 := by
  rcases prior with - | (- | -) <;> rfl

theorem ModeFlags.bits_eq (f : ModeFlags) :
    f.bits = (if f.accountRuns then 1 else 0) + (if f.cardRuns then 2 else 0) + (if f.remoteRuns then 4 else 0) := by
  obtain ⟨account, card, remote⟩ := f
  cases account <;> cases card <;> cases remote <;> rfl

theorem Presence.code_eq (p : Presence) : p.code = if p = .silent then 1 else 0 := by
  cases p <;> rfl

/-- What STATION_SET answers of a record: state, prior state, flags and presence. -/
def StationRecord.setBody (r : StationRecord) : List Byte :=
  be1 r.state.code ++ be1 (match r.prior with | none => 0 | some .enabled => 1 | some .draining => 2) ++
    be1 ((if r.flags.accountRuns then 1 else 0) + (if r.flags.cardRuns then 2 else 0) + (if r.flags.remoteRuns then 4 else 0)) ++
    be1 (if r.presence = .silent then 1 else 0)

theorem State.stationAnswer_eq {s : State} {st : Station} {r : StationRecord} (stored : s.stations[st] = r) :
    s.stationAnswer st = ⟨.ok, r.setBody⟩ := by
  rw [State.stationAnswer, stored, priorCode_eq, ModeFlags.bits_eq, Presence.code_eq, StationRecord.setBody]
  rfl

theorem State.setStation_station (s : State) (st : Station) (r : StationRecord) : (s.setStation st r).stations[st] = r := by
  simp

theorem State.stationSet_eq (s : State) (st : Station) (r : StationRecord) :
    s.stationSet st r = (s.setStation st r, ⟨.ok, r.setBody⟩) := by
  rw [State.stationSet, State.stationAnswer_eq (s.setStation_station st r)]

/-! ### The actions by the station's state (R161) -/

section Actions
variable {s : State} {st : Station} {flags : Option Byte}

theorem takeStationSetNone_badValue {f : StationSetNoneFields} (bad : 7 < f.station.toNat ∨ f.flags = none ∨ f.action ≠ 0) :
    takeStationSetNone f s = (s, ⟨.badValue, []⟩) := by
  unfold takeStationSetNone
  split
  case h_1 => rfl
  case h_2 read =>
    refine if_pos ?_
    rcases bad with noStation | rest
    · rw [readStation_none noStation] at read
      cases read
    · exact rest.symm

theorem takeStationSetNone_set {f : StationSetNoneFields} (number : f.station.toNat = st.val) (none_ : f.action = 0)
    (some_ : f.flags ≠ none) :
    takeStationSetNone f s = s.stationSet st (s.stations[st].withFlags f.flags) := by
  unfold takeStationSetNone
  rw [readStation_some number]
  exact if_neg (by simp [none_, some_])

theorem takeAction_noStation {action : State → Station → Option Byte → Taken} {f : StationSetFields} (noStation : 7 < f.station.toNat) :
    takeAction action f s = (s, ⟨.badValue, []⟩) := by
  unfold takeAction
  rw [readStation_none noStation]
  rfl

theorem takeAction_station {action : State → Station → Option Byte → Taken} {f : StationSetFields} (number : f.station.toNat = st.val) :
    takeAction action f s = action s st f.flags := by
  unfold takeAction
  rw [readStation_some number]

theorem State.enable_off (off : s.stations[st].state = .off) :
    s.enable st flags = s.stationSet st { s.stations[st].withFlags flags with state := .enabled, silence := some s.params.silence } := by
  unfold State.enable
  rw [off]

theorem State.enable_draining (draining : s.stations[st].state = .draining) :
    s.enable st flags = s.stationSet st { s.stations[st].withFlags flags with state := .enabled } := by
  unfold State.enable
  rw [draining]

theorem State.enable_refused (other : s.stations[st].state = .enabled ∨ s.stations[st].state = .held) :
    s.enable st flags = (s, ⟨.state, []⟩) := by
  unfold State.enable
  rcases other with is | is <;> rw [is] <;> rfl

theorem State.disable_idle (enabled : s.stations[st].state = .enabled) (idle : s.runIdle st = true ∧ s.sessionOpen st = false) :
    s.disable st flags = s.stationSet st { s.stations[st].withFlags flags with state := .off, silence := none } := by
  unfold State.disable
  rw [enabled]
  exact if_pos idle

theorem State.disable_busy (enabled : s.stations[st].state = .enabled) (busy : ¬ (s.runIdle st = true ∧ s.sessionOpen st = false)) :
    s.disable st flags = s.stationSet st { s.stations[st].withFlags flags with state := .draining } := by
  unfold State.disable
  rw [enabled]
  exact if_neg busy

theorem State.disable_refused (other : s.stations[st].state ≠ .enabled) : s.disable st flags = (s, ⟨.state, []⟩) := by
  unfold State.disable
  split
  case h_1 enabled => exact absurd enabled other
  all_goals rfl

theorem State.hold_enabled (enabled : s.stations[st].state = .enabled) :
    s.hold st flags = s.stationSet st { s.stations[st].withFlags flags with state := .held, prior := some .enabled } := by
  unfold State.hold
  rw [enabled]

theorem State.hold_draining (draining : s.stations[st].state = .draining) :
    s.hold st flags = s.stationSet st { s.stations[st].withFlags flags with state := .held, prior := some .draining } := by
  unfold State.hold
  rw [draining]

theorem State.hold_refused (other : s.stations[st].state = .off ∨ s.stations[st].state = .held) :
    s.hold st flags = (s, ⟨.state, []⟩) := by
  unfold State.hold
  rcases other with is | is <;> rw [is] <;> rfl

theorem State.release_refused (other : s.stations[st].state ≠ .held) : s.release st flags = (s, ⟨.state, []⟩) := by
  unfold State.release
  split
  case h_1 held => exact absurd held other
  all_goals rfl

/-- A station whose draining test has nothing to do keeps the record that was stored. -/
theorem State.setStation_drainTest_keep {r : StationRecord}
    (keeps : ¬ (r.state = .draining ∧ s.runIdle st = true ∧ s.sessionOpen st = false)) :
    (s.setStation st r).drainTest st = s.setStation st r := by
  have keepsThen : ¬ ((s.setStation st r).stations[st].state = .draining ∧ (s.setStation st r).runIdle st = true ∧
      (s.setStation st r).sessionOpen st = false) := by
    rwa [State.setStation_station]
  rw [State.drainTest, if_neg keepsThen]

/-- A DRAINING station without work is OFF after the draining test (R162). -/
theorem State.setStation_drainTest_off {r : StationRecord} (draining : r.state = .draining)
    (idle : s.runIdle st = true ∧ s.sessionOpen st = false) :
    (s.setStation st r).drainTest st = s.setStation st { r with state := .off, silence := none } := by
  have idleThen : (s.setStation st r).stations[st].state = .draining ∧ (s.setStation st r).runIdle st = true ∧
      (s.setStation st r).sessionOpen st = false := by
    rw [State.setStation_station]
    exact ⟨draining, idle⟩
  rw [State.drainTest, if_pos idleThen, State.setStation_station]
  simp [State.setStation]

/-- A HELD station returns to its prior state and takes the draining test at once. -/
theorem State.release_held {r : StationRecord} (held : s.stations[st].state = .held)
    (after : (s.setStation st { s.stations[st].withFlags flags with state := stateOfPrior s.stations[st].prior, prior := none }).drainTest st =
      s.setStation st r) :
    s.release st flags = (s.setStation st r, ⟨.ok, r.setBody⟩) := by
  unfold State.release
  rw [held]
  simp only [after, State.stationAnswer_eq (s.setStation_station st r)]

theorem State.turnOff_off (off : s.stations[st].state = .off) : s.turnOff st flags = (s, ⟨.state, []⟩) := by
  unfold State.turnOff
  rw [off]
  rfl

theorem State.turnOff_eq (on : s.stations[st].state ≠ .off) : s.turnOff st flags = s.turnOffWhenFree st flags := by
  unfold State.turnOff
  split
  case h_1 off => exact absurd off on
  all_goals rfl

theorem State.turnOffWhenFree_free (free : s.job st = none) (closed : s.sessions[st] = none) :
    s.turnOffWhenFree st flags =
      s.stationSet st { s.stations[st].withFlags flags with state := .off, prior := none, silence := none } :=
  if_pos ⟨Option.isNone_iff_eq_none.2 free, closed⟩

theorem State.turnOffWhenFree_busy (busy : s.job st ≠ none ∨ s.sessions[st] ≠ none) :
    s.turnOffWhenFree st flags = (s, ⟨.busy, []⟩) := by
  refine if_neg fun ⟨free, closed⟩ => ?_
  rcases busy with run | session
  · exact run (Option.isNone_iff_eq_none.1 free)
  · exact session closed

end Actions

/-- Settles O49: the six actions by the state of the station, with the flags part applied. -/
theorem stationSetActions : Obligations.StationSetActions := by
  unfold Obligations.StationSetActions
  intro s station flags heard h action none' refused
  have noned {code : Byte} {t : State} {x : Response} (took : takeStationSetNone ⟨station, code, flags⟩ h = (t, x)) :
      none' code (.next (t.respond .m x)) := request_answered rfl heard took
  have acted {take : State → Station → Option Byte → Taken} {t : State} {x : Response} (took : takeAction take ⟨station, flags⟩ h = (t, x)) :
      done (s.request .m 0x61 .management (.of ⟨station, flags⟩) (takeAction take)) = .next (t.respond .m x) :=
    request_answered rfl heard took
  refine ⟨fun noStation => ?noStation, fun st number => ?station⟩
  case noStation =>
    exact ⟨fun code => noned (takeStationSetNone_badValue (.inl noStation)), acted (takeAction_noStation noStation),
      acted (takeAction_noStation noStation), acted (takeAction_noStation noStation), acted (takeAction_noStation noStation),
      acted (takeAction_noStation noStation)⟩
  case station =>
    intro before r set idle off
    have withFlags : h.stations[st].withFlags flags = r := StationRecord.withFlags_eq _ _
    have idleThen : h.runIdle st = true ∧ h.sessionOpen st = false ↔ idle :=
      and_congr Option.isNone_iff_eq_none Iff.rfl
    have isRefused {take : State → Station → Option Byte → Taken} {code : RespCode} (took : take h st flags = (h, ⟨code, []⟩)) :
        done (s.request .m 0x61 .management (.of ⟨station, flags⟩) (takeAction take)) = refused code :=
      acted ((takeAction_station number).trans took)
    have isSet {take : State → Station → Option Byte → Taken} {x : StationRecord}
        (took : take h st flags = (h.setStation st x, ⟨.ok, x.setBody⟩)) :
        done (s.request .m 0x61 .management (.of ⟨station, flags⟩) (takeAction take)) = set x :=
      acted ((takeAction_station number).trans took)
    have stored {take : State → Station → Option Byte → Taken} {x : StationRecord} (took : take h st flags = h.stationSet st x) :
        done (s.request .m 0x61 .management (.of ⟨station, flags⟩) (takeAction take)) = set x :=
      isSet (took.trans (h.stationSet_eq st x))
    refine ⟨fun code bad => noned (takeStationSetNone_badValue (.inr bad)), fun some_ => ?none, fun is => ?off, fun is => ?enabled,
      fun is => ?draining, fun is => ?held, fun on => ?turnOff⟩
    case none =>
      have took := (takeStationSetNone_set (s := h) (f := ⟨station, 0, flags⟩) number rfl some_).trans (h.stationSet_eq st _)
      rw [withFlags] at took
      exact noned took
    case off =>
      have enable := State.enable_off (s := h) (flags := flags) is
      rw [withFlags] at enable
      exact ⟨stored enable, isRefused (State.disable_refused fun e => nomatch is.symm.trans e), isRefused (State.hold_refused (.inl is)),
        isRefused (State.release_refused fun e => nomatch is.symm.trans e), isRefused (State.turnOff_off is)⟩
    case enabled =>
      have toOff (free : idle) := State.disable_idle (s := h) (flags := flags) is (idleThen.2 free)
      have toDraining (busy : ¬ idle) := State.disable_busy (s := h) (flags := flags) is (mt idleThen.1 busy)
      have hold := State.hold_enabled (s := h) (flags := flags) is
      rw [withFlags] at hold toOff toDraining
      exact ⟨isRefused (State.enable_refused (.inl is)), fun free => stored (toOff free), fun busy => stored (toDraining busy),
        stored hold, isRefused (State.release_refused fun e => nomatch is.symm.trans e)⟩
    case draining =>
      have enable := State.enable_draining (s := h) (flags := flags) is
      have hold := State.hold_draining (s := h) (flags := flags) is
      rw [withFlags] at enable hold
      exact ⟨stored enable, isRefused (State.disable_refused fun e => nomatch is.symm.trans e), stored hold,
        isRefused (State.release_refused fun e => nomatch is.symm.trans e)⟩
    case held =>
      have release {x : StationRecord} (after : (h.setStation st { r with state := stateOfPrior before.prior, prior := none }).drainTest st =
          h.setStation st x) := State.release_held (s := h) (flags := flags) is (by rw [withFlags]; exact after)
      refine ⟨isRefused (State.enable_refused (.inr is)), isRefused (State.disable_refused fun e => nomatch is.symm.trans e),
        isRefused (State.hold_refused (.inr is)), fun prior => ?_, fun prior free => ?_, fun prior busy => ?_⟩
      · rw [prior] at release
        exact isSet (release (State.setStation_drainTest_keep fun drains => nomatch drains.1))
      · rw [prior] at release
        exact isSet (release (State.setStation_drainTest_off rfl (idleThen.2 free)))
      · rw [prior] at release
        exact isSet (release (State.setStation_drainTest_keep fun drains => busy (idleThen.1 drains.2)))
    case turnOff =>
      have free (run : h.job st = none) (session : h.sessions[st] = none) :=
        (State.turnOff_eq (s := h) (flags := flags) on).trans (State.turnOffWhenFree_free run session)
      rw [withFlags] at free
      exact ⟨fun run session => stored (free run session),
        fun busy => isRefused ((State.turnOff_eq (s := h) on).trans (State.turnOffWhenFree_busy busy))⟩

/-! ### STATION_READ (R165) -/

theorem takeStationRead_noStation {x : Byte} (s : State) (noStation : 7 < x.toNat) : takeStationRead x s = (s, ⟨.badValue, []⟩) := by
  unfold takeStationRead
  rw [readStation_none noStation]
  rfl

theorem takeStationRead_body {x : Byte} {st : Station} (s : State) (number : x.toNat = st.val) :
    takeStationRead x s = (s, ⟨.ok, s.stationBody st⟩) := by
  unfold takeStationRead
  rw [readStation_some number]
  rfl

/-- A frame on the M-link changes nothing that STATION_READ shows. -/
theorem State.handOn_m_stationBody (s : State) (st : Station) : (s.handOn .m).stationBody st = s.stationBody st := rfl

theorem timerBytes_eq (t : Option Nat) (frozen : Bool) :
    timerBytes t frozen = be2 (t.getD 0) ++ be1 (if t.isSome && frozen then 1 else 0) := rfl

theorem State.sessionCode_eq (s : State) (st : Station) :
    s.sessionCode st =
      match s.sessions[st] with
      | none => 0
      | some y => match y.state with | .opened => 1 | .closing => 2 | .capturing => 3 := by
  unfold State.sessionCode
  cases s.sessions[st] <;> rfl

theorem State.cardBalance_eq (s : State) (st : Station) :
    s.cardBalance st = match s.cards[st] with | none => 0 | some c => c.balance := by
  unfold State.cardBalance
  cases s.cards[st] <;> rfl

section Read
variable {s : State} {st : Station}

theorem State.readRun_idle (idle : s.job st = none) :
    s.readRun st =
      List.replicate 57 0 ++ (be1 s.runs[st].lastOutcome.code ++ be1 s.paths[st].length ++ be4 (pathCharge s.paths[st])) := by
  rw [State.readRun, idle]
  simp only [List.append_assoc]

theorem State.readRun_open {j : Job} (run : s.job st = some j) :
    s.readRun st =
      j.contextBytes ++ (be1 s.runs[st].lastOutcome.code ++ be1 s.paths[st].length ++ be4 (pathCharge s.paths[st])) := by
  rw [State.readRun, run]
  simp only [List.append_assoc]

theorem State.readTimers_idle (idle : s.job st = none) :
    s.readTimers st =
      timerBytes none false ++ (timerBytes s.jamTimers[st] (s.jamFrozen st) ++ timerBytes s.lostTimers[st] (s.lostFrozen st)) := by
  rw [State.readTimers, idle, List.append_assoc]
  rfl

theorem State.readTimers_open {j : Job} (run : s.job st = some j) :
    s.readTimers st =
      timerBytes j.idleTimer (s.isHeld st || s.isSilent st || j.state == .jammed) ++
        (timerBytes s.jamTimers[st] (s.jamFrozen st) ++ timerBytes s.lostTimers[st] (s.lostFrozen st)) := by
  rw [State.readTimers, State.runIdleFrozen, run, List.append_assoc]
  rfl

end Read

/-- Settles O50: the layout of the answer, part by part. -/
theorem stationReadAnswers : Obligations.StationReadAnswers := by
  unfold Obligations.StationReadAnswers
  intro s x heard answered
  refine ⟨fun noStation => request_answered rfl heard (takeStationRead_noStation _ noStation), fun st number => ?_⟩
  intro r record lastOutcome path timer held silent jamAndLost session
  have took := takeStationRead_body (s.handOn .m) number
  have isRecord : s.readRecord st = record := by
    rw [State.readRecord, priorCode_eq, ModeFlags.bits_eq]
    rfl
  have isSession : be1 (s.sessionCode st) ++ be4s (s.cardBalance st) = session :=
    congrArg₂ (fun code balance => be1 code ++ be4s balance) (s.sessionCode_eq st) (s.cardBalance_eq st)
  rw [State.handOn_m_stationBody, State.stationBody, List.append_assoc, isRecord, isSession] at took
  refine ⟨fun idle => ?idle, ?running⟩
  case idle =>
    rw [State.readRun_idle idle, State.readTimers_idle idle] at took
    exact request_answered rfl heard took
  case running =>
    intro j run burst context
    have isContext : j.contextBytes = context := by
      unfold Job.contextBytes
      rfl
    rw [State.readRun_open run, State.readTimers_open run, isContext] at took
    exact request_answered rfl heard took

end Sys2Proof.Machine

/-! PROOF. Card sessions and the capture queue (R93 to R113): AUTH_NOTICE, SESSION_QUERY, CAPTURE_HEAD, how a session leaves OPEN, how the
head order is removed, CAPTURE_RESULT, CAPTURE_ABANDON and the timers. -/

namespace Sys2Proof.Machine

/-! ### AUTH_NOTICE (R96 to R98) -/

theorem Params.classTier_eq {p : Params} {cardClass : Byte} {tier : Tier}
    (mapped : ∀ entry : Fin 4, cardClass.toNat = entry.val → tier = p.cardMap[entry]) (above : 3 < cardClass.toNat → tier = p.cardMap[0]) :
    p.classTier cardClass = tier := by
  unfold Params.classTier
  by_cases high : 3 < cardClass.toNat
  · rw [readTier_none high]
    exact (above high).symm
  · rw [readTier_some (tier := ⟨cardClass.toNat, by omega⟩) rfl]
    exact (mapped ⟨cardClass.toNat, by omega⟩ rfl).symm

/-- The answer carries what the session and the card slot hold at that moment. -/
theorem State.authAnswer_eq {s : State} {st : Station} {y : Session} {c : Credit} (session : s.sessions[st] = some y)
    (slot : s.cards[st] = some c) :
    s.authAnswer st = ⟨.ok, be1 st.val ++ be1 y.state.code ++ be1 y.auths.length ++ be4s c.balance ++ be1 y.tier.val⟩ := by
  rw [State.authAnswer, State.sessionCode, State.cardBalance, session, slot]
  rfl

section AuthNotice
variable {s : State} {st : Station} {f : AuthNoticeFields}

theorem takeAuthNotice_noStation (noStation : 7 < f.station.toNat) : takeAuthNotice f s = (s, ⟨.badValue, []⟩) := by
  unfold takeAuthNotice
  rw [readStation_none noStation]
  rfl

theorem takeAuthNotice_badAmount (number : f.station.toNat = st.val) (bad : f.amount.toNat = 0 ∨ 100000 < f.amount.toNat) :
    takeAuthNotice f s = (s, ⟨.badValue, []⟩) := by
  unfold takeAuthNotice
  rw [readStation_some number]
  exact if_pos bad

theorem takeAuthNotice_checks (number : f.station.toNat = st.val) (some_ : 1 ≤ f.amount.toNat) (atMost : f.amount.toNat ≤ 100000) :
    takeAuthNotice f s = s.authChecks st f := by
  have good : ¬ (f.amount.toNat = 0 ∨ Config.authAmountMax < f.amount.toNat) := by
    simp only [Config.authAmountMax]
    omega
  unfold takeAuthNotice
  rw [readStation_some number]
  exact if_neg good

theorem State.authChecks_off (off : s.stations[st].state = .off) : s.authChecks st f = (s, ⟨.stationOff, []⟩) :=
  if_pos off

theorem State.authChecks_held (held : s.stations[st].state = .held) : s.authChecks st f = (s, ⟨.stationHeld, []⟩) := by
  rw [State.authChecks, if_neg (by rw [held]; decide), if_pos held]
  rfl

section Served
variable (served : s.serves st)
include served

/-- A station that is ENABLED or DRAINING goes on to its card flag and its session. -/
theorem State.authChecks_served :
    s.authChecks st f =
      if s.stations[st].flags.cardRuns = false then (s, ⟨.disabled, []⟩)
      else
        match s.sessions[st] with
        | none => s.authOpen st f
        | some x => s.authTopUp st x f := by
  have on : s.stations[st].state ≠ .off := by
    rcases served with is | is <;> rw [is] <;> decide
  have notHeld : s.stations[st].state ≠ .held := by
    rcases served with is | is <;> rw [is] <;> decide
  exact (if_neg on).trans (if_neg notHeld)

theorem State.authChecks_disabled (disabled : s.stations[st].flags.cardRuns = false) :
    s.authChecks st f = (s, ⟨.disabled, []⟩) := by
  rw [State.authChecks_served served, if_pos disabled]

variable (cards : s.stations[st].flags.cardRuns = true)
include cards

theorem State.authChecks_none (none_ : s.sessions[st] = none) : s.authChecks st f = s.authOpen st f := by
  rw [State.authChecks_served served, if_neg (ne_false_of_eq_true cards), none_]

theorem State.authChecks_some {x : Session} (session : s.sessions[st] = some x) : s.authChecks st f = s.authTopUp st x f := by
  rw [State.authChecks_served served, if_neg (ne_false_of_eq_true cards), session]

end Served

theorem State.authOpen_draining (draining : s.stations[st].state = .draining) : s.authOpen st f = (s, ⟨.disabled, []⟩) :=
  if_pos draining

section Enabled
variable (enabled : s.stations[st].state = .enabled)
include enabled

theorem State.authOpen_busy (busy : s.job st ≠ none) : s.authOpen st f = (s, ⟨.stationBusy, []⟩) := by
  have notIdle : s.runIdle st = false := Option.isNone_eq_false_iff.2 (Option.isSome_iff_ne_none.2 busy)
  rw [State.authOpen, if_neg (by rw [enabled]; decide), if_pos notIdle]
  rfl

variable (idle : s.job st = none)
include idle

theorem State.authOpen_idle :
    s.authOpen st f =
      if s.admits = false then (s.latch .admissionRefused, ⟨.logFull, []⟩)
      else (s.openSession st f, (s.openSession st f).authAnswer st) := by
  have isIdle : s.runIdle st = true := Option.isNone_iff_eq_none.2 idle
  rw [State.authOpen, if_neg (by rw [enabled]; decide), if_neg (by simp [isIdle])]
  rfl

theorem State.authOpen_full (full : s.admits = false) : s.authOpen st f = (s.latch .admissionRefused, ⟨.logFull, []⟩) := by
  rw [State.authOpen_idle enabled idle, if_pos full]

theorem State.authOpen_opened (room : s.admits = true) :
    s.authOpen st f =
      (s.openSession st f,
        ⟨.ok, be1 st.val ++ be1 1 ++ be1 1 ++ be4s f.amount.toNat ++ be1 (s.params.classTier f.cardClass).val⟩) := by
  have session : (s.openSession st f).sessions[st] =
      some { state := .opened, tier := s.params.classTier f.cardClass, auths := [authOf f], spent := 0
             idleTimer := some s.params.cardIdle } := by
    simp [State.openSession]
  have slot : (s.openSession st f).cards[st] = some ⟨f.amount.toNat, 0, []⟩ := by
    simp [State.openSession]
  rw [State.authOpen_idle enabled idle, if_neg (by simp [room]), State.authAnswer_eq session slot]
  rfl

end Enabled

theorem State.authTopUp_left {x : Session} (left : x.state ≠ .opened) : s.authTopUp st x f = (s, ⟨.sessionBusy, []⟩) :=
  if_pos left

section Opened
variable {x : Session} (opened : x.state = .opened)
include opened

/-- An OPEN session looks for the reference first. -/
theorem State.authTopUp_opened :
    s.authTopUp st x f =
      match x.auths.find? (fun a => a.reference == f.reference) with
      | some a => (s, ⟨.duplicate, be4 a.amount ++ be1 x.auths.length⟩)
      | none =>
        if 3 ≤ x.auths.length then (s, ⟨.authLimit, []⟩)
        else (s.topUpSession st x f, (s.topUpSession st x f).authAnswer st) :=
  if_neg (not_not_intro opened)

theorem State.authTopUp_duplicate {a : Auth} (found : x.auths.find? (fun a => a.reference == f.reference) = some a) :
    s.authTopUp st x f = (s, ⟨.duplicate, be4 a.amount ++ be1 x.auths.length⟩) := by
  rw [State.authTopUp_opened opened, found]

variable (fresh : x.auths.find? (fun a => a.reference == f.reference) = none)
include fresh

theorem State.authTopUp_limit (full : 3 ≤ x.auths.length) : s.authTopUp st x f = (s, ⟨.authLimit, []⟩) := by
  rw [State.authTopUp_opened opened, fresh]
  exact if_pos full

theorem State.authTopUp_topped {c : Credit} (slot : s.cards[st] = some c) (room : x.auths.length < 3) :
    s.authTopUp st x f =
      (s.topUpSession st x f,
        ⟨.ok, be1 st.val ++ be1 1 ++ be1 (x.auths.length + 1) ++ be4s (c.balance + f.amount.toNat) ++ be1 x.tier.val⟩) := by
  have session : (s.topUpSession st x f).sessions[st] =
      some { x with auths := x.auths ++ [authOf f], idleTimer := some s.params.cardIdle } := by
    simp [State.topUpSession]
  have slotAfter : (s.topUpSession st x f).cards[st] = some (c.topUp f.amount.toNat) := by
    simp [State.topUpSession, slot]
  rw [State.authTopUp_opened opened, fresh]
  simp only [if_neg (Nat.not_le.2 room), State.authAnswer_eq session slotAfter, opened, List.length_append, List.length_singleton,
    SessionState.code, Credit.topUp]

end Opened

end AuthNotice

/-- A reference that no authorization has is not found. -/
theorem find_reference_none {auths : List Auth} {reference : Word} (fresh : ∀ a ∈ auths, a.reference ≠ reference) :
    auths.find? (fun a => a.reference == reference) = none :=
  List.find?_eq_none.2 fun a ha is => fresh a ha (beq_iff_eq.1 is)

/-- Settles O28: the session that is opened, the one that is topped up, and the refusals in their order. -/
theorem authNoticeAnswers : Obligations.AuthNoticeAnswers := by
  unfold Obligations.AuthNoticeAnswers
  refine ⟨?taken, ?refused⟩
  case taken =>
    intro s st f heard number some_ atMost cards h auth
    have checks := takeAuthNotice_checks (s := h) number some_ atMost
    refine ⟨fun tier enabled noSession idle room mapped above => ?opens, fun x c served session opened slot fresh room => ?topsUp⟩
    case opens =>
      have isTier : h.params.classTier f.cardClass = tier := Params.classTier_eq mapped above
      have took := (checks.trans (State.authChecks_none (.inl enabled) cards noSession)).trans
        (State.authOpen_opened enabled idle ((s.handOn_admits .p).trans (s.admits_iff.2 room)))
      rw [isTier, State.openSession, isTier] at took
      exact request_answered rfl heard took
    case topsUp =>
      have slotThen : h.cards[st] = some c := slot
      have servedThen : h.serves st := State.handOn_serves .p served
      have sessionThen : h.sessions[st] = some x := session
      have toTopUp : h.authChecks st f = h.authTopUp st x f := State.authChecks_some servedThen cards sessionThen
      have took := State.authTopUp_topped opened (find_reference_none fresh) slotThen room
      rw [← toTopUp, ← checks, State.topUpSession, slotThen] at took
      exact request_answered rfl heard took
  case refused =>
    intro s f heard h refused
    refine ⟨fun noStation => request_answered rfl heard (takeAuthNotice_noStation noStation), fun st number =>
      ⟨fun bad => request_answered rfl heard (takeAuthNotice_badAmount number bad), fun some_ atMost => ?_⟩⟩
    have checked {t : State} {r : Response} (took : h.authChecks st f = (t, r)) :
        exec (.authNotice .p (.of f)) s = .next (t.respond .p r) :=
      request_answered rfl heard ((takeAuthNotice_checks number some_ atMost).trans took)
    refine ⟨fun off => checked (State.authChecks_off off), fun held => checked (State.authChecks_held held), fun served => ?served⟩
    have servedThen : h.serves st := State.handOn_serves .p served
    refine ⟨fun disabled => checked (State.authChecks_disabled servedThen disabled), fun cards => ⟨fun noSession => ?noSession,
      fun x session => ?session⟩⟩
    case noSession =>
      have opening {t : State} {r : Response} (took : h.authOpen st f = (t, r)) :
          exec (.authNotice .p (.of f)) s = .next (t.respond .p r) :=
        checked ((State.authChecks_none servedThen cards noSession).trans took)
      exact ⟨fun draining => opening (State.authOpen_draining draining), fun enabled =>
        ⟨fun busy => opening (State.authOpen_busy enabled busy), fun idle full =>
          opening (State.authOpen_full enabled idle ((s.handOn_admits .p).trans (s.admits_not.2 full)))⟩⟩
    case session =>
      have topping {r : Response} (took : h.authTopUp st x f = (h, r)) : refused r :=
        checked ((State.authChecks_some servedThen cards session).trans took)
      exact ⟨fun left => topping (State.authTopUp_left left), fun opened =>
        ⟨fun a found => topping (State.authTopUp_duplicate opened found), fun fresh full =>
          topping (State.authTopUp_limit opened (find_reference_none fresh) full)⟩⟩

/-! ### SESSION_QUERY and CAPTURE_HEAD (R99, R109) -/

theorem takeSessionQuery_noStation {x : Byte} (s : State) (noStation : 7 < x.toNat) : takeSessionQuery x s = (s, ⟨.badValue, []⟩) := by
  unfold takeSessionQuery
  rw [readStation_none noStation]
  rfl

theorem takeSessionQuery_body {x : Byte} {st : Station} (s : State) (number : x.toNat = st.val) :
    takeSessionQuery x s = (s, ⟨.ok, s.sessionBody st⟩) := by
  unfold takeSessionQuery
  rw [readStation_some number]
  rfl

theorem State.cardHeld_eq (s : State) (st : Station) : s.cardHeld st = match s.cards[st] with | none => 0 | some c => c.held := by
  unfold State.cardHeld
  cases s.cards[st] <;> rfl

theorem State.sessionBody_none {s : State} {st : Station} (none_ : s.sessions[st] = none) : s.sessionBody st = be1 0 := by
  rw [State.sessionBody, none_]

theorem State.sessionBody_some {s : State} {st : Station} {x : Session} (session : s.sessions[st] = some x) :
    s.sessionBody st =
      be1 x.state.code ++ be1 x.tier.val ++ be4s (s.cardBalance st) ++ be4 (s.cardHeld st) ++ be4 x.spent ++
        be1 x.auths.length ++ x.auths.flatMap Auth.queryBytes ++ be2 (secondsLeft x.idleTimer) := by
  rw [State.sessionBody, session]

/-- The closing wait as CAPTURE_HEAD lists it. -/
def State.waitBytes (s : State) : List Byte := be1 s.closingWait.length ++ s.closingWait.flatMap (fun st => be1 st.val)

theorem takeCaptureHead_empty {s : State} (empty : s.captureQueue = []) :
    takeCaptureHead () s = (s, ⟨.ok, List.replicate 10 0 ++ be1 0 ++ be2 0 ++ s.waitBytes⟩) := by
  rw [takeCaptureHead, State.captureHeadBody, empty, State.answer, State.waitBytes, ← List.append_assoc]
  rfl

theorem takeCaptureHead_head {s : State} {head : Order} {rest : List Order} (queue : s.captureQueue = head :: rest) :
    takeCaptureHead () s = (s, ⟨.ok, head.bytes ++ be1 (rest.length + 1) ++ be2 s.headAge ++ s.waitBytes⟩) := by
  rw [takeCaptureHead, State.captureHeadBody, queue, State.answer, State.waitBytes, ← List.append_assoc]
  rfl

/-- Settles O29: the session of a station, and the head order with the closing wait. -/
theorem sessionQueryAndCaptureHead : Obligations.SessionQueryAndCaptureHead := by
  unfold Obligations.SessionQueryAndCaptureHead
  refine ⟨?query, ?head⟩
  case query =>
    intro s x heard answered
    refine ⟨fun noStation => request_answered rfl heard (takeSessionQuery_noStation _ noStation), fun st number =>
      ⟨fun none_ => ?_, fun y session => ?_⟩⟩
    · have took := takeSessionQuery_body (s.handOn .p) number
      rw [State.sessionBody_none (s := s.handOn .p) none_] at took
      exact request_answered rfl heard took
    · have took := takeSessionQuery_body (s.handOn .p) number
      rw [State.sessionBody_some (s := s.handOn .p) session, State.cardBalance_eq, State.cardHeld_eq] at took
      exact request_answered rfl heard took
  case head =>
    intro s heard wait
    exact ⟨fun empty => request_answered rfl heard (takeCaptureHead_empty empty),
      fun head rest queue => request_answered rfl heard (takeCaptureHead_head queue)⟩

end Sys2Proof.Machine

/-! PROOF. The capture queue (R103 to R113): how a session leaves OPEN, how the head order is removed, CAPTURE_RESULT, CAPTURE_ABANDON and
the card session unit's timers. -/

namespace Sys2Proof.Machine

/-! ### Capture allocation (R103) -/

/-- Each authorization takes the smaller of its amount and what those before it leave of the spent total. -/
theorem allocate_eq (spent : Nat) (auths : List Auth) :
    allocate spent auths =
      auths.mapIdx (fun i a => { a with capture := some (min a.amount (spent - ((auths.take i).map (fun x => x.amount)).sum)) }) := by
  induction auths generalizing spent with
  | nil => rfl
  | cons a rest ih =>
    rw [allocate, ih, List.mapIdx_cons]
    congr 1
    refine List.mapIdx_eq_mapIdx_iff.2 fun i _ => ?_
    have left : spent - min a.amount spent - ((rest.take i).map (fun x => x.amount)).sum =
        spent - (((a :: rest).take (i + 1)).map (fun x => x.amount)).sum := by
      rw [List.take_succ_cons, List.map_cons, List.sum_cons]
      omega
    rw [left]

/-- Authorizations that are worth the spent total take all of it. -/
theorem sum_allocate {spent : Nat} {auths : List Auth} (worth : spent ≤ (auths.map (fun a => a.amount)).sum) :
    ((allocate spent auths).map (fun a => a.capture.getD 0)).sum = spent := by
  induction auths generalizing spent with
  | nil =>
    rw [List.map_nil, List.sum_nil] at worth
    exact (Nat.le_zero.1 worth).symm
  | cons a rest ih =>
    rw [List.map_cons, List.sum_cons] at worth
    rw [allocate, List.map_cons, List.sum_cons, ih (by omega), Option.getD_some]
    omega

/-! ### Leaving OPEN (R104) -/

section LeaveOpen
variable {s : State} {st : Station} {x : Session}

/-- The draining test after a session is stored that is not OPEN asks only for the run. -/
theorem State.leaveOpen_fits (nobody : s.closingWait = []) (room : s.captureQueue.length + x.auths.length ≤ 16) :
    s.leaveOpen st x = (s.enterCapturing st x.allocated).drainTest st := by
  rw [State.leaveOpen, if_pos]
  rw [nobody, List.isEmpty_nil, Bool.true_and]
  exact decide_eq_true room

theorem State.leaveOpen_waits (waits : s.closingWait ≠ [] ∨ 16 < s.captureQueue.length + x.auths.length) :
    s.leaveOpen st x = (s.enterClosing st x.allocated).drainTest st := by
  rw [State.leaveOpen, if_neg]
  rw [State.captureRoom, Bool.and_eq_true, List.isEmpty_iff, decide_eq_true_iff, Config.captureCapacity]
  rintro ⟨nobody, room⟩
  rcases waits with some_ | full
  · exact some_ nobody
  · omega

end LeaveOpen

theorem drained_iff {s : State} {st : Station} {sessions : Vector (Option Session) 8} {y : Session} (stored : sessions[st] = some y)
    (left : y.state ≠ .opened) :
    (s.stations[st].state = .draining ∧ s.runIdle st = true ∧ (sessions[st].any fun x => x.state == .opened) = false) ↔
      (s.stations[st].state = .draining ∧ s.job st = none) := by
  have closed : (sessions[st].any fun x => x.state == .opened) = false := by
    rw [stored]
    exact beq_eq_false_iff_ne.2 left
  rw [closed]
  exact and_congr Iff.rfl ((and_iff_left rfl).trans Option.isNone_iff_eq_none)

/-- The stations after the draining test, with a session stored that is not OPEN. -/
theorem State.drainTest_left {s : State} {st : Station} {y : Session} (session : s.sessions[st] = some y) (left : y.state ≠ .opened) :
    s.drainTest st =
      { s with
        stations := if s.stations[st].state = .draining ∧ s.job st = none then
            s.stations.set st { s.stations[st] with state := .off, silence := none }
          else s.stations } := by
  have same := drained_iff (s := s) session left
  rw [State.drainTest]
  congr 1
  exact if_congr same rfl rfl

theorem ite_isEmpty {α β : Type} (l : List α) (a b : β) : (if l.isEmpty then a else b) = if l = [] then a else b :=
  if_congr List.isEmpty_iff rfl rfl

theorem State.enterCapturing_eq (s : State) (st : Station) (x : Session) :
    s.enterCapturing st x =
      { s with
        captureQueue := s.captureQueue ++ x.auths.map (Auth.order st)
        sessions := s.sessions.set st (some { x with state := .capturing, idleTimer := none })
        cards := s.cards.set st none
        stallTimer := if s.captureQueue = [] then some s.params.captureStall else s.stallTimer
        headAge := if s.captureQueue = [] then 0 else s.headAge } := by
  rw [State.enterCapturing, ite_isEmpty, ite_isEmpty]

/-- Settles O30: the allocation, and the two ways of a session that leaves OPEN. -/
theorem sessionLeavesOpen : Obligations.SessionLeavesOpen := by
  unfold Obligations.SessionLeavesOpen
  refine ⟨fun spent auths => ⟨allocate_eq spent auths, sum_allocate⟩, ?leaves⟩
  intro s st x auths stations
  refine ⟨fun nobody room => ?fits, fun waits => ?waits⟩
  case fits =>
    have stored : (s.enterCapturing st x.allocated).sessions[st] = some { x.allocated with state := .capturing, idleTimer := none } := by
      simp
    rw [State.leaveOpen_fits nobody room, State.drainTest_left stored nofun, State.enterCapturing_eq]
    rfl
  case waits =>
    have stored : (s.enterClosing st x.allocated).sessions[st] = some { x.allocated with state := .closing, idleTimer := none } := by
      simp
    rw [State.leaveOpen_waits waits, State.drainTest_left stored nofun]
    rfl

/-! ### The closing wait (R113) -/

section TryWait
variable {s : State} {st : Station} {wait : List Station} {x : Session} (session : s.sessions[st] = some x)
include session

/-- The first of the closing wait enters CAPTURING where its orders fit. -/
theorem State.tryWait_cons :
    State.tryWait (st :: wait) s =
      if s.captureRoom x then State.tryWait wait (s.enterCapturing st x) else { s with closingWait := st :: wait } := by
  rw [State.tryWait, session]

theorem State.tryWait_stops (full : 16 < s.captureQueue.length + x.auths.length) :
    State.tryWait (st :: wait) s = { s with closingWait := st :: wait } := by
  rw [State.tryWait_cons session]
  exact if_neg fun room => Nat.not_le.2 full (of_decide_eq_true room)

theorem State.tryWait_goesOn (room : s.captureQueue.length + x.auths.length ≤ 16) :
    State.tryWait (st :: wait) s = State.tryWait wait (s.enterCapturing st x) := by
  rw [State.tryWait_cons session]
  exact if_pos (decide_eq_true room)

end TryWait

/-! ### The removal of the head (R108, R112) -/

theorem Session.answered_iff (x : Session) : x.answered = true ↔ ∀ a ∈ x.auths, a.outcome ≠ .pending := by
  simp only [Session.answered, List.all_eq_true, bne_iff_ne]

theorem State.newHead_eq (s : State) :
    s.newHead = { s with stallTimer := if s.captureQueue = [] then none else some s.params.captureStall, headAge := 0 } := by
  rw [State.newHead, ite_isEmpty]

section LogSession
variable {s : State} {st : Station} {x : Session} (session : s.sessions[st] = some x)
include session

theorem State.logSession_pending (pending : x.answered = false) : s.logSession st = s := by
  rw [State.logSession, session]
  exact if_neg (by simp [pending])

theorem State.logSession_logged (answered : x.answered = true) :
    s.logSession st =
      { s with
        log := s.log ++ [{ seq := s.logNext, entry := x.entry st }]
        logNext := step16 s.logNext
        reserved := s.reserved - 1
        sessions := s.sessions.set st none
        latched := s.latched ||| 0x00000200#32 } := by
  rw [State.logSession, session]
  exact if_pos answered

end LogSession

section RemoveHead
variable {s : State} {head : Order} {rest : List Order} {outcome : AuthOutcome} {x : Session}
  (session : s.sessions[head.station] = some x)
include session

theorem State.storeOutcome_eq :
    s.storeOutcome head rest outcome =
      { s with captureQueue := rest, sessions := s.sessions.set head.station (some (x.answer head.reference outcome)) } := by
  rw [State.storeOutcome, session]
  rfl

theorem State.storeOutcome_session :
    (s.storeOutcome head rest outcome).sessions[head.station] = some (x.answer head.reference outcome) := by
  rw [State.storeOutcome_eq session]
  simp

theorem State.removeHead_pending (pending : (x.answer head.reference outcome).answered = false) :
    s.removeHead head rest outcome =
      (State.tryWait s.closingWait
        { s with captureQueue := rest, sessions := s.sessions.set head.station (some (x.answer head.reference outcome)) }).newHead := by
  simp only [State.removeHead, State.logSession_pending (State.storeOutcome_session session) pending]
  rw [State.storeOutcome_eq session]

theorem State.removeHead_logged (answered : (x.answer head.reference outcome).answered = true) :
    s.removeHead head rest outcome =
      (State.tryWait s.closingWait
        { s with
          captureQueue := rest
          sessions := s.sessions.set head.station none
          log := s.log ++ [{ seq := s.logNext, entry := (x.answer head.reference outcome).entry head.station }]
          logNext := step16 s.logNext
          reserved := s.reserved - 1
          latched := s.latched ||| 0x00000200#32 }).newHead := by
  simp only [State.removeHead, State.logSession_logged (State.storeOutcome_session session) answered]
  rw [State.storeOutcome_eq session]
  simp only [Vector.set_set]

end RemoveHead

/-- Settles O33: the outcome stored, the session logged where all is answered, and the closing wait tried for the new head. -/
theorem headOrderRemoved : Obligations.HeadOrderRemoved := by
  unfold Obligations.HeadOrderRemoved
  refine ⟨?removal, fun s => rfl, fun s st wait x session => ⟨State.tryWait_stops session, fun room => ?enters⟩⟩
  case removal =>
    intro s head rest outcome x queue session y stored fresh
    have isAnswer : x.answer head.reference outcome = y := rfl
    refine ⟨fun ⟨a, ha, pending⟩ => ?_, fun answered => ?_⟩
    · have notAnswered : (x.answer head.reference outcome).answered = false :=
        Bool.eq_false_iff.2 fun all => (Session.answered_iff _).1 all a ha pending
      rw [State.removeHead_pending session notAnswered, State.newHead_eq, isAnswer]
    · rw [State.removeHead_logged session ((Session.answered_iff _).2 answered), State.newHead_eq, isAnswer]
      rfl
  case enters =>
    rw [State.tryWait_goesOn session room, State.enterCapturing_eq]
    rfl

/-! ### CAPTURE_RESULT and CAPTURE_ABANDON (R108, R110) -/

/-- The closing wait is tried on the queue and the sessions alone. -/
theorem tryWait_captureQueue_congr (wait : List Station) {a b : State} (queue : a.captureQueue = b.captureQueue)
    (sessions : a.sessions = b.sessions) : (State.tryWait wait a).captureQueue = (State.tryWait wait b).captureQueue := by
  induction wait generalizing a b with
  | nil => exact queue
  | cons st rest ih =>
    cases session : a.sessions[st] with
    | none =>
      have sessionB : b.sessions[st] = none := sessions ▸ session
      rw [State.tryWait, State.tryWait, session, sessionB]
      exact queue
    | some x =>
      have sessionB : b.sessions[st] = some x := sessions ▸ session
      rw [State.tryWait_cons session, State.tryWait_cons sessionB, State.captureRoom, State.captureRoom, queue]
      split
      · exact ih (by simp [queue]) (by simp [sessions])
      · rfl

/-- What is latched before the removal has no part in the queue that it leaves. -/
theorem State.removeHead_latchIf_captureQueue {s : State} {head : Order} {rest : List Order} {outcome : AuthOutcome} {x : Session}
    (c : Bool) (e : Event) (session : s.sessions[head.station] = some x) :
    (s.removeHead head rest outcome).captureQueue = ((s.latchIf c e).removeHead head rest outcome).captureQueue := by
  have sessionLatched : (s.latchIf c e).sessions[head.station] = some x := session
  cases answered : (x.answer head.reference outcome).answered with
  | true =>
    rw [State.removeHead_logged session answered, State.removeHead_logged sessionLatched answered]
    exact tryWait_captureQueue_congr _ rfl rfl
  | false =>
    rw [State.removeHead_pending session answered, State.removeHead_pending sessionLatched answered]
    exact tryWait_captureQueue_congr _ rfl rfl

/-- An outcome that is not PENDING leaves a session answered where every other authorization is. -/
theorem Session.answered_answer_iff (x : Session) (reference : Word) {outcome : AuthOutcome} (given : outcome ≠ .pending) :
    (x.answer reference outcome).answered = true ↔ ∀ a ∈ x.auths, a.reference ≠ reference → a.outcome ≠ .pending := by
  rw [Session.answered_iff, Session.answer, List.forall_mem_map]
  refine forall₂_congr fun a _ => ?_
  by_cases same : a.reference = reference
  · simp [same, given]
  · simp [same]

theorem State.logsOnRemoval_iff {s : State} {head : Order} {outcome : AuthOutcome} {x : Session} (given : outcome ≠ .pending)
    (session : s.sessions[head.station] = some x) :
    s.logsOnRemoval head outcome = true ↔ ∀ a ∈ x.auths, a.reference ≠ head.reference → a.outcome ≠ .pending := by
  rw [State.logsOnRemoval, session, ← Session.answered_answer_iff x head.reference given]
  rfl

/-- The answer of a removal: the order, the orders left, and the number of the SESSION record. -/
theorem State.removalAnswer_eq {s : State} {head : Order} {rest : List Order} {outcome : AuthOutcome} {x : Session}
    (given : outcome ≠ .pending) (session : s.sessions[head.station] = some x) :
    s.removalAnswer head rest outcome =
      ⟨.ok, head.bytes ++ be1 (s.removeHead head rest outcome).captureQueue.length ++
        be2 (if ∀ a ∈ x.auths, a.reference ≠ head.reference → a.outcome ≠ .pending then s.logNext else 0)⟩ := by
  rw [State.removalAnswer, if_congr (State.logsOnRemoval_iff given session) rfl rfl]
  rfl

section Outcomes
variable {s : State}

theorem readResult_none {x : Byte} (notDone : x.toNat ≠ 1) (notFailed : x.toNat ≠ 2) : readResult x = none := by
  unfold readResult
  rw [if_neg fun h => notDone (by rw [h]; rfl), if_neg fun h => notFailed (by rw [h]; rfl)]

theorem readResult_some {x : Byte} (listed : x.toNat = 1 ∨ x.toNat = 2) :
    readResult x = some (if x.toNat = 1 then .done else .failed) := by
  rcases listed with is | is
  · rw [show x = 1 from BitVec.eq_of_toNat_eq is]
    rfl
  · rw [show x = 2 from BitVec.eq_of_toNat_eq is]
    rfl

theorem takeCaptureResult_badValue {f : CaptureResultFields} (unread : readResult f.outcome = none) :
    takeCaptureResult f s = (s, ⟨.badValue, []⟩) := by
  unfold takeCaptureResult
  rw [unread]
  rfl

theorem takeCaptureResult_empty {f : CaptureResultFields} {outcome : AuthOutcome} (read : readResult f.outcome = some outcome)
    (empty : s.captureQueue = []) : takeCaptureResult f s = (s, ⟨.notFound, []⟩) := by
  unfold takeCaptureResult
  rw [read]
  simp only [empty]
  rfl

theorem takeCaptureResult_other {f : CaptureResultFields} {outcome : AuthOutcome} {head : Order} {rest : List Order}
    (read : readResult f.outcome = some outcome) (queue : s.captureQueue = head :: rest) (other : head.reference ≠ f.reference) :
    takeCaptureResult f s = (s, ⟨.notFound, []⟩) := by
  unfold takeCaptureResult
  rw [read]
  simp only [queue, if_pos other]
  rfl

theorem takeCaptureResult_removed {f : CaptureResultFields} {outcome : AuthOutcome} {head : Order} {rest : List Order}
    (read : readResult f.outcome = some outcome) (queue : s.captureQueue = head :: rest) (same : head.reference = f.reference) :
    takeCaptureResult f s =
      ((s.latchIf (outcome == .failed) .captureFailed).removeHead head rest outcome, s.removalAnswer head rest outcome) := by
  unfold takeCaptureResult
  rw [read]
  simp only [queue, if_neg (not_not_intro same)]

theorem takeCaptureAbandon_empty {f : CaptureAbandonFields} (empty : s.captureQueue = []) :
    takeCaptureAbandon f s = (s, ⟨.notFound, []⟩) := by
  unfold takeCaptureAbandon
  rw [empty]
  rfl

theorem takeCaptureAbandon_other {f : CaptureAbandonFields} {head : Order} {rest : List Order} (queue : s.captureQueue = head :: rest)
    (other : head.station.val ≠ f.station.toNat ∨ head.reference ≠ f.reference) : takeCaptureAbandon f s = (s, ⟨.notFound, []⟩) := by
  unfold takeCaptureAbandon
  rw [queue]
  exact if_pos other

theorem takeCaptureAbandon_removed {f : CaptureAbandonFields} {head : Order} {rest : List Order} (queue : s.captureQueue = head :: rest)
    (station : head.station.val = f.station.toNat) (reference : head.reference = f.reference) :
    takeCaptureAbandon f s = (s.removeHead head rest .abandoned, s.removalAnswer head rest .abandoned) := by
  unfold takeCaptureAbandon
  rw [queue]
  exact if_neg (not_or.2 ⟨not_not_intro station, not_not_intro reference⟩)

end Outcomes

/-- Settles O34: the refusals and the removals, with the latch of a FAILED capture. -/
theorem captureOutcomes : Obligations.CaptureOutcomes := by
  unfold Obligations.CaptureOutcomes
  refine ⟨?result, ?abandon⟩
  case result =>
    intro s f heard h answered
    refine ⟨fun notDone notFailed => request_answered rfl heard (takeCaptureResult_badValue (readResult_none notDone notFailed)),
      fun listed => ⟨fun empty => request_answered rfl heard (takeCaptureResult_empty (readResult_some listed) empty), ?_⟩⟩
    intro head rest x queue session
    refine ⟨fun other => request_answered rfl heard (takeCaptureResult_other (readResult_some listed) queue other), ?_⟩
    intro same outcome noted number
    have given : outcome ≠ .pending := by
      simp only [outcome]
      split <;> decide
    have isNoted : h.latchIf (outcome == .failed) .captureFailed = noted := by
      rcases listed with is | is <;> simp only [noted, outcome, is, State.latchIf] <;> rfl
    have took := takeCaptureResult_removed (s := h) (outcome := outcome) (readResult_some listed) queue same
    rw [State.removalAnswer_eq (s := h) given session,
      State.removeHead_latchIf_captureQueue (s := h) (outcome == .failed) .captureFailed session, isNoted] at took
    exact request_answered rfl heard took
  case abandon =>
    intro s f heard h answered
    refine ⟨fun empty => request_answered rfl heard (takeCaptureAbandon_empty empty), fun head rest x queue session =>
      ⟨fun other => request_answered rfl heard (takeCaptureAbandon_other queue other), ?_⟩⟩
    intro station reference number
    have took := takeCaptureAbandon_removed (s := h) queue station reference
    rw [State.removalAnswer_eq (s := h) (by decide) session] at took
    exact request_answered rfl heard took

/-! ### The timers (R101, R111) -/

theorem timerDue_iff (t : Option Nat) : timerDue t = true ↔ t = some 0 := beq_iff_eq

theorem State.cardIdleFrozen_iff (s : State) (st : Station) :
    s.cardIdleFrozen st = true ↔ s.stations[st].state = .held ∨ ∃ j, s.job st = some j ∧ j.slot = .card := by
  simp only [State.cardIdleFrozen, State.isHeld, Bool.or_eq_true, beq_iff_eq, Option.any_eq_true]

section Expiry
variable {s : State} {st : Station}

theorem onCardIdleTimerExpiry_due {x : Session} (session : s.sessions[st] = some x) (opened : x.state = .opened)
    (due : x.idleTimer = some 0) (running : s.cardIdleFrozen st = false) : onCardIdleTimerExpiry st s = s.leaveOpen st x := by
  rw [onCardIdleTimerExpiry, session]
  exact if_pos ⟨opened, (timerDue_iff _).2 due, running⟩

theorem onCardIdleTimerExpiry_none (none_ : s.sessions[st] = none) : onCardIdleTimerExpiry st s = s := by
  rw [onCardIdleTimerExpiry, none_]

theorem onCardIdleTimerExpiry_keeps {x : Session} (session : s.sessions[st] = some x)
    (nothing : (x.state ≠ .opened ∨ x.idleTimer ≠ some 0) ∨ s.cardIdleFrozen st = true) : onCardIdleTimerExpiry st s = s := by
  rw [onCardIdleTimerExpiry, session]
  refine if_neg fun ⟨opened, due, running⟩ => ?_
  rcases nothing with (left | waiting) | frozen
  · exact left opened
  · exact waiting ((timerDue_iff _).1 due)
  · exact absurd (frozen.symm.trans running) (by decide)

end Expiry

/-- Settles O35: the expiry of a card idle timer that has run down and is not frozen, and that of the stall timing. -/
theorem sessionTimerExpiries : Obligations.SessionTimerExpiries := by
  unfold Obligations.SessionTimerExpiries
  intro s
  refine ⟨fun st x session opened due notHeld otherSlot => ?due, fun st nothing => ?keeps, fun due => ?stall, fun waiting => ?stays⟩
  case due =>
    have running : s.cardIdleFrozen st = false := by
      rw [← Bool.not_eq_true, State.cardIdleFrozen_iff]
      rintro (held | ⟨j, run, card⟩)
      · exact notHeld held
      · exact otherSlot j run card
    exact congrArg Host.Outcome.next (onCardIdleTimerExpiry_due session opened due running)
  case keeps =>
    refine congrArg Host.Outcome.next ?_
    cases session : s.sessions[st] with
    | none => exact onCardIdleTimerExpiry_none session
    | some x =>
      refine onCardIdleTimerExpiry_keeps session ?_
      rw [State.cardIdleFrozen_iff]
      exact nothing.imp_left fun all => all x session
  case stall => exact congrArg Host.Outcome.next (if_pos ((timerDue_iff _).2 due))
  case stays => exact congrArg Host.Outcome.next (if_neg (mt (timerDue_iff _).1 waiting))

end Sys2Proof.Machine

/-! PROOF. How a run ends (R40, R53, R64 to R68, R87 to R90): the close and the return written out, and the expiries of a run's timers. -/

namespace Sys2Proof.Machine

/-! ### The close and the return (R53, R67) -/

/-- With its run IDLE, the draining test of a station asks for its session alone. -/
theorem State.drainTest_idle {s : State} {st : Station} (idle : s.job st = none) :
    s.drainTest st =
      { s with
        stations := if s.stations[st].state = .draining ∧ s.sessionOpen st = false then
            s.stations.set st { s.stations[st] with state := .off, silence := none }
          else s.stations } := by
  have isIdle : s.runIdle st = true := Option.isNone_iff_eq_none.2 idle
  rw [State.drainTest, isIdle]
  congr 1
  exact if_congr (and_congr Iff.rfl (and_iff_right rfl)) rfl rfl

theorem State.sessionOpen_congr {s t : State} (sessions : t.sessions = s.sessions) (st : Station) :
    t.sessionOpen st = s.sessionOpen st := by
  rw [State.sessionOpen, State.sessionOpen, sessions]

theorem State.spend_sessionOpen (s : State) (st : Station) (slot : SlotKind) (k : Nat) (st' : Station) :
    (s.spend st slot k).sessionOpen st' = s.sessionOpen st' := by
  unfold State.spend State.sessionOpen
  by_cases card : slot = .card
  · by_cases same : st' = st
    · subst same
      cases session : s.sessions[st'] <;> simp_all
    · have apart : (st : Nat) ≠ st' := fun is => same (Fin.ext is.symm)
      simp [card, apart]
  · simp [card]

/-- Which sessions are OPEN is no matter of a close. -/
theorem State.closeJob_sessionOpen (s : State) (st : Station) (j : Job) (reason : CloseReason) (st' : Station) :
    (s.closeJob st j reason).sessionOpen st' = s.sessionOpen st' := by
  have spent : (s.closeJob st j reason).sessions =
      (((s.setPath st []).mapCredit j.slot j.account (Credit.closeDebit st j.finalDebit j.hold)).spend st j.slot
        j.finalDebit).sessions := by
    simp [State.closeJob]
  rw [State.sessionOpen_congr spent, State.spend_sessionOpen]
  rfl

theorem State.returnJob_sessionOpen (s : State) (st : Station) (j : Job) (outcome : LastOutcome) (st' : Station) :
    (s.returnJob st j outcome).sessionOpen st' = s.sessionOpen st' :=
  State.sessionOpen_congr (State.returnJob_sessions ..) st'

theorem State.closeJob_job (s : State) (st : Station) (j : Job) (reason : CloseReason) (st' : Station) :
    (s.closeJob st j reason).job st' = if st' = st then none else s.job st' :=
  State.job_set (State.closeJob_runs ..) st'

theorem State.returnJob_job (s : State) (st : Station) (j : Job) (outcome : LastOutcome) (st' : Station) :
    (s.returnJob st j outcome).job st' = if st' = st then none else s.job st' :=
  State.job_set (State.returnJob_runs ..) st'

/-- The state of a close before its draining test. -/
def State.closedUndrained (s : State) (st : Station) (j : Job) (reason : CloseReason) : State :=
  let disputed := j.disputed + s.paths[st].length
  s |>.setPath st []
    |>.mapCredit j.slot j.account (Credit.closeDebit st j.finalDebit j.hold)
    |>.spend st j.slot j.finalDebit
    |>.leaveBank j.bank
    |>.append (j.closeEntry st reason disputed)
    |>.setMeters st (s.meters[st].close j.credited disputed)
    |>.idleRun st
    |>.unreserve
    |>.freeMirror j.slot j.account
    |>.dropReferrals st
    |>.stopRunTimers st
    |>.latch .runClosed

theorem State.closeJob_eq_drainTest (s : State) (st : Station) (j : Job) (reason : CloseReason) :
    s.closeJob st j reason = (s.closedUndrained st j reason).drainTest st := rfl

theorem State.closedUndrained_job (s : State) (st : Station) (j : Job) (reason : CloseReason) :
    (s.closedUndrained st j reason).job st = none := by
  have runs : (s.closedUndrained st j reason).runs = s.runs.set st { s.runs[st] with job := none } := rfl
  rw [State.job_set runs, if_pos rfl]

theorem State.closedUndrained_sessionOpen (s : State) (st : Station) (j : Job) (reason : CloseReason) :
    (s.closedUndrained st j reason).sessionOpen st = s.sessionOpen st :=
  s.closeJob_sessionOpen st j reason st

/-- The state of a return before its draining test. -/
def State.returnedUndrained (s : State) (st : Station) (j : Job) (outcome : LastOutcome) : State :=
  s |>.dropReferrals st
    |>.mapCredit j.slot j.account (Credit.leave st)
    |>.freeMirror j.slot j.account
    |>.leaveBank j.bank
    |>.unreserve
    |>.setRun st (Run.idle outcome)
    |>.stopRunTimers st

theorem State.returnJob_eq_drainTest (s : State) (st : Station) (j : Job) (outcome : LastOutcome) :
    s.returnJob st j outcome = (s.returnedUndrained st j outcome).drainTest st := rfl

theorem State.returnedUndrained_job (s : State) (st : Station) (j : Job) (outcome : LastOutcome) :
    (s.returnedUndrained st j outcome).job st = none := by
  have runs : (s.returnedUndrained st j outcome).runs = s.runs.set st (Run.idle outcome) := rfl
  rw [State.job_set runs, if_pos rfl]
  rfl

/-- The interims and the close debit A rounded half up, and the close no more than the hold (R40). -/
theorem Job.Law.finalDebit {j : Job} {path : List PathEntry} (law : j.Law path) :
    j.settled + ((j.charge + 50) / 100 - j.settled) = (j.charge + 50) / 100 ∧ (j.charge + 50) / 100 - j.settled ≤ j.hold := by
  have settled := law.settledBound
  have covered := law.covered
  omega

theorem State.leaveBank_eq (s : State) (name : BankName) :
    s.leaveBank name =
      { s with
        bankA := if name = .a then { s.bankA with users := s.bankA.users - 1 } else s.bankA
        bankB := if name = .b then { s.bankB with users := s.bankB.users - 1 } else s.bankB } := by
  cases name <;> rfl

/-- A record that one test changes twice. -/
theorem ite_then_ite {α : Type} {c : Prop} [Decidable c] (g : α → α) (a b : α) :
    (if c then g (if c then a else b) else if c then a else b) = if c then g a else b := by
  split <;> rfl

/-- Settles O22: the close and the return as one step each, and what the close debits. -/
theorem runEnds : Obligations.RunEnds := by
  unfold Obligations.RunEnds
  refine ⟨?close, ?return_⟩
  case close =>
    intro s st j reason run final disputed left
    refine ⟨?_, Job.Law.finalDebit⟩
    rw [State.closeJob_eq_drainTest, State.drainTest_idle (s.closedUndrained_job st j reason), State.closedUndrained_sessionOpen]
    have mirrors := ite_then_ite (c := j.slot = .mirror) (List.filter fun x => !(x.number == j.account && x.credit.runList.isEmpty))
      (s.mirrors.map fun x => if x.number = j.account then { x with credit := left x.credit } else x) s.mirrors
    rw [State.closedUndrained, State.leaveBank_eq, ← mirrors]
    rfl
  case return_ =>
    intro s st j outcome run mirror left
    rw [State.returnJob_eq_drainTest, State.drainTest_idle (s.returnedUndrained_job st j outcome), State.returnedUndrained,
      State.leaveBank_eq]
    simp only [State.mapCredit, State.freeMirror, mirror, reduceIte]
    rfl

/-! ### The expiries of a run's timers (R65, R88, R90) -/

section Expiry
variable {s : State} {st : Station}

theorem State.isHeld_iff : s.isHeld st = true ↔ s.stations[st].state = .held := beq_iff_eq
theorem State.isSilent_iff : s.isSilent st = true ↔ s.stations[st].presence = .silent := beq_iff_eq

theorem State.jamFrozen_iff : s.jamFrozen st = true ↔ s.stations[st].state = .held ∨ s.stations[st].presence = .silent := by
  rw [State.jamFrozen, Bool.or_eq_true, State.isHeld_iff, State.isSilent_iff]

theorem onRunIdleTimerExpiry_idle (idle : s.job st = none) : onRunIdleTimerExpiry st s = s := by
  rw [onRunIdleTimerExpiry, idle]

theorem onJamTimerExpiry_idle (idle : s.job st = none) : onJamTimerExpiry st s = s := by
  rw [onJamTimerExpiry, idle]

theorem onLostTimerExpiry_idle (idle : s.job st = none) : onLostTimerExpiry st s = s := by
  rw [onLostTimerExpiry, idle]

variable {j : Job} (run : s.job st = some j)
include run

theorem State.runIdleFrozen_iff :
    s.runIdleFrozen st = true ↔ s.stations[st].state = .held ∨ s.stations[st].presence = .silent ∨ j.state = .jammed := by
  rw [State.runIdleFrozen, run, Bool.or_eq_true, Bool.or_eq_true, State.isHeld_iff, State.isSilent_iff, or_assoc, Option.any_some,
    beq_iff_eq]

theorem onRunIdleTimerExpiry_run :
    onRunIdleTimerExpiry st s = if timerDue j.idleTimer ∧ s.runIdleFrozen st = false then s.closeJob st j .idle else s := by
  rw [onRunIdleTimerExpiry, run]

theorem onJamTimerExpiry_run :
    onJamTimerExpiry st s =
      if timerDue s.jamTimers[st] ∧ s.jamFrozen st = false then (s.closeJob st j .jamTimeout).latch .jamTimeout else s := by
  rw [onJamTimerExpiry, run]

theorem onLostTimerExpiry_run :
    onLostTimerExpiry st s =
      if timerDue s.lostTimers[st] ∧ s.lostFrozen st = false then
        if j.state = .referral then s.returnJob st j .cancelled else s.closeJob st j .linkLost
      else s := by
  rw [onLostTimerExpiry, run]

end Expiry

/-- A timer that has run down where it is not frozen. -/
theorem due_and_running {t : Option Nat} {frozen : Bool} {stopped : Prop} (frozen_iff : frozen = true ↔ stopped) :
    (timerDue t = true ∧ frozen = false) ↔ (t = some 0 ∧ ¬ stopped) := by
  rw [timerDue_iff, ← frozen_iff, Bool.not_eq_true]

/-- Settles O23: each expiry acts where its timer has run down and is not frozen. -/
theorem runTimerExpiries : Obligations.RunTimerExpiries := by
  unfold Obligations.RunTimerExpiries
  intro s st
  refine ⟨fun idle => ⟨congrArg Host.Outcome.next (onRunIdleTimerExpiry_idle idle), congrArg Host.Outcome.next (onJamTimerExpiry_idle idle),
    congrArg Host.Outcome.next (onLostTimerExpiry_idle idle)⟩, ?_⟩
  intro j run held silent
  have idleTimer := onRunIdleTimerExpiry_run run
  have jamTimer := onJamTimerExpiry_run run
  have lostTimer := onLostTimerExpiry_run run
  have idleDue := due_and_running (t := j.idleTimer) (State.runIdleFrozen_iff run)
  have jamDue := due_and_running (t := s.jamTimers[st]) (s.jamFrozen_iff (st := st))
  have lostDue := due_and_running (t := s.lostTimers[st]) (show s.lostFrozen st = true ↔ held from State.isHeld_iff)
  refine ⟨fun due notHeld notSilent notJammed => ?_, fun nothing => ?_, fun due notHeld notSilent => ?_, fun nothing => ?_,
    fun due notHeld charging => ?_, fun due notHeld referral => ?_, fun nothing => ?_⟩
  · have acts := idleDue.2 ⟨due, not_or.2 ⟨notHeld, not_or.2 ⟨notSilent, notJammed⟩⟩⟩
    exact congrArg Host.Outcome.next (idleTimer.trans (if_pos acts))
  · have rests := mt idleDue.1 (not_and_or.2 (nothing.imp_right not_not_intro))
    exact congrArg Host.Outcome.next (idleTimer.trans (if_neg rests))
  · have acts := jamDue.2 ⟨due, not_or.2 ⟨notHeld, notSilent⟩⟩
    exact congrArg Host.Outcome.next (jamTimer.trans (if_pos acts))
  · have rests := mt jamDue.1 (not_and_or.2 (nothing.imp_right not_not_intro))
    exact congrArg Host.Outcome.next (jamTimer.trans (if_neg rests))
  · have acts := lostDue.2 ⟨due, notHeld⟩
    exact congrArg Host.Outcome.next (lostTimer.trans ((if_pos acts).trans (if_neg charging)))
  · have acts := lostDue.2 ⟨due, notHeld⟩
    exact congrArg Host.Outcome.next (lostTimer.trans ((if_pos acts).trans (if_pos referral)))
  · have rests := mt lostDue.1 (not_and_or.2 (nothing.imp_right not_not_intro))
    exact congrArg Host.Outcome.next (lostTimer.trans (if_neg rests))

end Sys2Proof.Machine

/-! PROOF. TEARDOWN (R176), a second of the timebase and the silence timer (R64, R87, R89, R100, R111, R128, R163, R164, R175). -/

namespace Sys2Proof.Machine

/-! ### What a pass over the stations brings about -/

section Pass
variable {visit : State → Station → State} {holds : State → Station → Prop}

/-- What no visit disturbs still holds after the pass. -/
theorem foldl_keeps (keeps : ∀ s st st', holds s st' → holds (visit s st) st') (stations : List Station) {s : State} {st : Station}
    (before : holds s st) : holds (stations.foldl visit s) st := by
  induction stations generalizing s with
  | nil => exact before
  | cons x rest ih => exact ih (keeps s x st before)

/-- What each visit brings about at its station, and no visit disturbs, holds at every station of the pass. -/
theorem foldl_brings (brings : ∀ s st, holds (visit s st) st) (keeps : ∀ s st st', holds s st' → holds (visit s st) st')
    {stations : List Station} {st : Station} (visited : st ∈ stations) (s : State) : holds (stations.foldl visit s) st := by
  induction stations generalizing s with
  | nil => cases visited
  | cons x rest ih =>
    rcases List.mem_cons.1 visited with rfl | later
    · exact foldl_keeps keeps rest (brings s st)
    · exact ih later _

end Pass

theorem mem_allStations (st : Station) : st ∈ allStations := by
  revert st
  decide

/-! ### One station's run and session in a teardown -/

section Teardown
variable {s : State} {st : Station}

theorem State.teardownRun_idle (idle : s.job st = none) : s.teardownRun st = s := by
  rw [State.teardownRun, idle]

theorem State.teardownRun_run {j : Job} (run : s.job st = some j) :
    s.teardownRun st = if j.state = .referral then s.returnJob st j .cancelled else s.closeJob st j .teardown := by
  rw [State.teardownRun, run]

theorem State.teardownSession_none (none_ : s.sessions[st] = none) : s.teardownSession st = s := by
  rw [State.teardownSession, none_]

theorem State.teardownSession_some {x : Session} (session : s.sessions[st] = some x) :
    s.teardownSession st = if x.state = .opened then s.leaveOpen st x else s := by
  rw [State.teardownSession, session]

theorem State.teardownSession_left (left : ∀ x, s.sessions[st] = some x → x.state ≠ .opened) : s.teardownSession st = s := by
  cases session : s.sessions[st] with
  | none => exact State.teardownSession_none session
  | some x => exact (State.teardownSession_some session).trans (if_neg (left x session))

end Teardown

theorem State.teardownRun_job (s : State) (st st' : Station) :
    (s.teardownRun st).job st' = if st' = st then none else s.job st' := by
  cases run : s.job st with
  | none =>
    rw [State.teardownRun_idle run]
    split
    case isTrue same => rw [same, run]
    case isFalse => rfl
  | some j =>
    rw [State.teardownRun_run run]
    split
    · exact s.returnJob_job st j .cancelled st'
    · exact s.closeJob_job st j .teardown st'

/-- A session leaving OPEN is stored as one that is not OPEN, and no run is touched. -/
theorem State.leaveOpen_session (s : State) (st : Station) (x : Session) :
    (∃ y : Session, y.state ≠ .opened ∧ (s.leaveOpen st x).sessions = s.sessions.set st (some y)) ∧
      (s.leaveOpen st x).runs = s.runs := by
  unfold State.leaveOpen
  split
  · exact ⟨⟨{ x.allocated with state := .capturing, idleTimer := none }, nofun, rfl⟩, rfl⟩
  · exact ⟨⟨{ x.allocated with state := .closing, idleTimer := none }, nofun, rfl⟩, rfl⟩

theorem State.sessionOpen_set {s t : State} {st : Station} {y : Session} (sessions : t.sessions = s.sessions.set st (some y))
    (left : y.state ≠ .opened) (st' : Station) : t.sessionOpen st' = if st' = st then false else s.sessionOpen st' := by
  unfold State.sessionOpen
  rw [sessions]
  by_cases same : st' = st
  · subst same
    simp [left]
  · have apart : (st : Nat) ≠ st' := fun is => same (Fin.ext is.symm)
    simp [same, apart]

theorem State.teardownSession_sessionOpen (s : State) (st st' : Station) :
    (s.teardownSession st).sessionOpen st' = if st' = st then false else s.sessionOpen st' := by
  by_cases opened : ∃ x, s.sessions[st] = some x ∧ x.state = .opened
  · obtain ⟨x, session, isOpen⟩ := opened
    obtain ⟨⟨y, left, sessions⟩, -⟩ := s.leaveOpen_session st x
    rw [State.teardownSession_some session, if_pos isOpen]
    exact State.sessionOpen_set sessions left st'
  · have closed : ∀ x, s.sessions[st] = some x → x.state ≠ .opened := fun x session isOpen => opened ⟨x, session, isOpen⟩
    rw [State.teardownSession_left closed]
    split
    case isFalse => rfl
    case isTrue same =>
      subst same
      unfold State.sessionOpen
      cases session : s.sessions[st'] with
      | none => rfl
      | some x => exact beq_eq_false_iff_ne.2 (closed x session)

theorem State.teardownSession_job (s : State) (st st' : Station) : (s.teardownSession st).job st' = s.job st' := by
  have runs : (s.teardownSession st).runs = s.runs := by
    cases session : s.sessions[st] with
    | none => rw [State.teardownSession_none session]
    | some x =>
      rw [State.teardownSession_some session]
      split
      · exact (s.leaveOpen_session st x).2
      · rfl
  rw [State.job, State.job, runs]

/-! ### The numbers of the records (R133) -/

theorem repeat_comm {α : Type} (f : α → α) (n : Nat) (a : α) : Nat.repeat f n (f a) = f (Nat.repeat f n a) := by
  induction n with
  | zero => rfl
  | succ n ih => exact congrArg f ih

/-- The last of `n` numbers is the first one stepped `n - 1` times. -/
theorem lastSeqOf_eq (counter n : Nat) : lastSeqOf counter n = if n = 0 then 0 else Nat.repeat step16 (n - 1) counter := by
  induction n generalizing counter with
  | zero => rfl
  | succ n ih =>
    cases n with
    | zero => rfl
    | succ n =>
      rw [lastSeqOf, ih, if_neg (Nat.succ_ne_zero n), if_neg (Nat.succ_ne_zero _)]
      · exact repeat_comm step16 n counter
      · nofun

/-- Settles O55: the answer, the two passes and what they leave, and each station's part in them. -/
theorem teardownEndsTheWork : Obligations.TeardownEndsTheWork := by
  unfold Obligations.TeardownEndsTheWork
  refine ⟨?answer, fun s => ⟨rfl, fun st => ⟨?idle, ?closed⟩⟩, fun s st => ⟨State.teardownRun_idle, fun j => State.teardownRun_run,
    State.teardownSession_left, fun x session opened => (State.teardownSession_some session).trans (if_pos opened)⟩⟩
  case answer =>
    intro s heard closed cancelled moved after
    have took : takeTeardown () (s.handOn .m) = ((s.handOn .m).teardown, ⟨.ok, s.teardownBody⟩) := rfl
    rw [State.teardownBody, lastSeqOf_eq] at took
    exact request_answered rfl heard took
  case idle =>
    refine foldl_keeps (holds := fun s st => s.job st = none) (fun s st st' idle => ?_) allStations ?_
    · rw [State.teardownSession_job]
      exact idle
    · refine foldl_brings (holds := fun s st => s.job st = none) (fun s st => ?_) (fun s st st' idle => ?_) (mem_allStations st) s
      · rw [State.teardownRun_job, if_pos rfl]
      · rw [State.teardownRun_job, idle, ite_self]
  case closed =>
    refine foldl_brings (holds := fun s st => s.sessionOpen st = false) (fun s st => ?_) (fun s st st' closed => ?_) (mem_allStations st) _
    · rw [State.teardownSession_sessionOpen, if_pos rfl]
    · rw [State.teardownSession_sessionOpen, closed, ite_self]

/-! ### A second of the timebase -/

theorem State.tickRun_eq (s : State) (st : Station) :
    s.tickRun st =
      { s.runs[st] with
        job := s.runs[st].job.map (fun j =>
          { j with idleTimer := tickTimer (s.isHeld st || s.isSilent st || j.state == .jammed) j.idleTimer }) } := by
  unfold State.tickRun State.runIdleFrozen State.job
  cases s.runs[st].job <;> rfl

/-- What a second of the timebase leaves at a station. -/
theorem onTimebaseTick_station (s : State) (st : Station) :
    (onTimebaseTick s).runs[st] = s.tickRun st ∧
      (onTimebaseTick s).jamTimers[st] = tickTimer (s.jamFrozen st) s.jamTimers[st] ∧
      (onTimebaseTick s).lostTimers[st] = tickTimer (s.lostFrozen st) s.lostTimers[st] ∧
      (onTimebaseTick s).sessions[st] = s.tickSession st ∧ (onTimebaseTick s).stations[st] = s.tickStation st := by
  refine ⟨?_, ?_, ?_, ?_, ?_⟩
  all_goals exact Vector.getElem_ofFn _

/-! ### The silence timer (R164) -/

section Silence
variable {s : State} {st : Station}

theorem silence_due_iff :
    (timerDue s.stations[st].silence = true ∧ s.isHeld st = false) ↔
      (s.stations[st].silence = some 0 ∧ s.stations[st].state ≠ .held) :=
  due_and_running State.isHeld_iff

theorem onSilenceTimerExpiry_keeps (nothing : s.stations[st].silence ≠ some 0 ∨ s.stations[st].state = .held) :
    onSilenceTimerExpiry st s = s :=
  if_neg (mt silence_due_iff.1 (not_and_or.2 (nothing.imp_right not_not_intro)))

variable (due : s.stations[st].silence = some 0) (notHeld : s.stations[st].state ≠ .held)
include due notHeld

theorem onSilenceTimerExpiry_due :
    onSilenceTimerExpiry st s =
      { s with
        stations := s.stations.set st s.stations[st].silenced
        lostTimers := if s.isSilent st = false ∧ s.runIdle st = false then s.lostTimers.set st (some s.params.jamTimer)
          else s.lostTimers
        latched := if s.isSilent st then s.latched else s.latched ||| 0x00000001#32 } :=
  if_pos (silence_due_iff.2 ⟨due, notHeld⟩)

theorem onSilenceTimerExpiry_silent (silent : s.stations[st].presence = .silent) :
    onSilenceTimerExpiry st s = { s with stations := s.stations.set st s.stations[st].silenced } := by
  have isSilent : s.isSilent st = true := State.isSilent_iff.2 silent
  rw [onSilenceTimerExpiry_due due notHeld, isSilent]
  rfl

/-- A PRESENT station becomes SILENT; its lost timer starts where its run is open. -/
theorem onSilenceTimerExpiry_present (present : s.stations[st].presence = .present) :
    onSilenceTimerExpiry st s =
      { s with
        stations := s.stations.set st s.stations[st].silenced
        lostTimers := if s.runIdle st = false then s.lostTimers.set st (some s.params.jamTimer) else s.lostTimers
        latched := s.latched ||| 0x00000001#32 } := by
  have notSilent : s.isSilent st = false := by
    rw [← Bool.not_eq_true, State.isSilent_iff, present]
    decide
  rw [onSilenceTimerExpiry_due due notHeld, notSilent]
  simp

end Silence

/-- Settles O56: every timer after a second by its station's state, and the silence timer's expiry by the presence and the run. -/
theorem timebaseAndSilence : Obligations.TimebaseAndSilence := by
  unfold Obligations.TimebaseAndSilence
  refine ⟨?tick, ?silence⟩
  case tick =>
    intro s down held silent
    refine ⟨onTimebaseTick s, rfl, fun st => ?_, ?_⟩
    · obtain ⟨run, jamTimer, lostTimer, session, station⟩ := onTimebaseTick_station s st
      exact ⟨run.trans (s.tickRun_eq st), jamTimer, lostTimer, session, station⟩
    · rw [← ite_isEmpty]
      rfl
  case silence =>
    intro s st r silenced noted
    refine ⟨fun nothing => congrArg Host.Outcome.next (onSilenceTimerExpiry_keeps nothing),
      fun due notHeld silent => congrArg Host.Outcome.next (onSilenceTimerExpiry_silent due notHeld silent),
      fun due notHeld present idle => ?_, fun due notHeld present running => ?_⟩
    · have isIdle : s.runIdle st = true := Option.isNone_iff_eq_none.2 idle
      have expired := onSilenceTimerExpiry_present due notHeld present
      rw [isIdle] at expired
      exact congrArg Host.Outcome.next expired
    · have notIdle : s.runIdle st = false := Option.isNone_eq_false_iff.2 (Option.isSome_iff_ne_none.2 running)
      have expired := onSilenceTimerExpiry_present due notHeld present
      rw [notIdle] at expired
      exact congrArg Host.Outcome.next expired

end Sys2Proof.Machine

/-! PROOF. LOAD (R45 to R50, R120, R121): one rule for each branch of the checks and of the account resolution, what opening a run changes,
and the three statements assembled from them. -/

namespace Sys2Proof.Machine

/-! ### Opening a run (R49, R50) -/

theorem State.useBank_eq (s : State) (name : BankName) :
    s.useBank name =
      { s with
        bankA := if name = .a then { s.bankA with users := s.bankA.users + 1 } else s.bankA
        bankB := if name = .b then { s.bankB with users := s.bankB.users + 1 } else s.bankB } := by
  cases name <;> rfl

theorem State.openRun_eq (s : State) (st : Station) (account : Word) (slot : SlotKind) (tier : Tier) (bank : BankName)
    (template : Template) :
    s.openRun st account slot tier bank template =
      State.mapCredit
        { s with
          runs := s.runs.set st
            { job := some (s.newJob .active account slot tier bank template (some s.params.runIdle)), lastOutcome := .none }
          bankA := if bank = .a then { s.bankA with users := s.bankA.users + 1 } else s.bankA
          bankB := if bank = .b then { s.bankB with users := s.bankB.users + 1 } else s.bankB
          reserved := s.reserved + 1 } slot account (Credit.join st) := by
  rw [State.openRun, State.useBank_eq]
  rfl

theorem State.openReferral_eq (s : State) (st : Station) (account : Word) (bank : BankName) (template : Template) :
    s.openReferral st account bank template =
      { s with
        mirrors := s.mirrors ++
          [{ number := account, state := .pending, tier := 0, credit := { balance := 0, held := 0, runList := [st] } }]
        referrals := s.referrals ++
          [{ id := s.nextReferralId, kind := .opening, station := st, account := account, requested := s.params.referralOpen
             state := .waiting, timeout := s.params.referralTimeout }]
        referralNextId := idAfter s.nextReferralId
        latched := s.latched ||| 0x00000010#32
        runs := s.runs.set st { job := some (s.newJob .referral account .mirror 0 bank template none), lastOutcome := .none }
        bankA := if bank = .a then { s.bankA with users := s.bankA.users + 1 } else s.bankA
        bankB := if bank = .b then { s.bankB with users := s.bankB.users + 1 } else s.bankB
        reserved := s.reserved + 1 } := by
  rw [State.openReferral, State.useBank_eq]
  rfl

section Available
variable {s : State} {n : Word}

theorem State.available_house {r : HouseRecord} (found : s.houseRecord n = some r) :
    s.available .house n = r.credit.balance + r.limit - r.credit.held := by
  simp only [State.available, State.creditOf, State.limitOf, found, Option.map_some, Option.getD_some]

theorem State.available_mirror {m : Mirror} (found : s.mirrorOf n = some m) :
    s.available .mirror n = m.credit.balance - m.credit.held := by
  simp [State.available, State.creditOf, State.limitOf, found]

theorem State.available_card {st : Station} {c : Credit} (slot : s.cards[st] = some c) :
    s.available .card (cardNumber st) = c.balance - c.held := by
  simp only [State.available, State.creditOf, State.limitOf, cardStation_cardNumber, slot]
  simp

end Available

/-! ### The checks of a LOAD (R45) -/

section Load
variable {s : State} {st : Station} {account : Word} {template : Template} {bank : BankName}

theorem State.loadChecks_busy (running : s.job st ≠ none) : s.loadChecks st account template = (s, ⟨.busy, []⟩) :=
  if_pos (Option.isNone_eq_false_iff.2 (Option.isSome_iff_ne_none.2 running))

section Idle
variable (idle : s.job st = none)
include idle

/-- An IDLE run goes on to the prices and the log. -/
theorem State.loadChecks_idle :
    s.loadChecks st account template =
      match s.active with
      | none => (s, ⟨.noPrices, []⟩)
      | some bank =>
        if s.admits = false then (s.latch .admissionRefused, ⟨.logFull, []⟩) else s.resolveLoad st account bank template := by
  have isIdle : s.runIdle st = true := Option.isNone_iff_eq_none.2 idle
  exact if_neg (by rw [isIdle]; decide)

theorem State.loadChecks_noPrices (noBank : s.active = none) : s.loadChecks st account template = (s, ⟨.noPrices, []⟩) := by
  rw [State.loadChecks_idle idle, noBank]

variable (active : s.active = some bank)
include active

theorem State.loadChecks_full (full : s.admits = false) :
    s.loadChecks st account template = (s.latch .admissionRefused, ⟨.logFull, []⟩) := by
  rw [State.loadChecks_idle idle, active]
  exact if_pos full

theorem State.loadChecks_resolve (room : s.admits = true) :
    s.loadChecks st account template = s.resolveLoad st account bank template := by
  rw [State.loadChecks_idle idle, active]
  exact if_neg (ne_false_of_eq_true room)

end Idle

/-! ### The account resolution (R46) -/

theorem State.resolveLoad_card : s.resolveLoad st 0 bank template = s.loadCard st bank template := if_pos rfl

theorem State.resolveLoad_badValue (above : 0xFFFFFFF0 ≤ account.toNat) :
    s.resolveLoad st account bank template = (s, ⟨.badValue, []⟩) := by
  have notZero : account ≠ 0 := by
    rintro rfl
    exact absurd above (by decide)
  have notOrdinary : isOrdinary account = false := by
    rw [← Bool.not_eq_true, isOrdinary_iff]
    omega
  exact (if_neg notZero).trans (if_pos notOrdinary)

section Ordinary
variable (low : 1 ≤ account.toNat) (high : account.toNat ≤ 0xFFFFFFEF)
include low high

theorem State.resolveLoad_ordinary :
    s.resolveLoad st account bank template =
      if s.sessionOpen st then (s, ⟨.sessionOpen, []⟩)
      else if s.isRemote account then s.loadRemote st account bank template
      else s.loadHouse st account bank template := by
  have notZero : account ≠ 0 := by
    rintro rfl
    exact absurd low (by decide)
  have ordinary : isOrdinary account = true := (isOrdinary_iff account).2 ⟨low, high⟩
  exact (if_neg notZero).trans (if_neg (ne_false_of_eq_true ordinary))

theorem State.resolveLoad_sessionOpen (opened : s.sessionOpen st = true) :
    s.resolveLoad st account bank template = (s, ⟨.sessionOpen, []⟩) := by
  rw [State.resolveLoad_ordinary low high, if_pos opened]

variable (closed : s.sessionOpen st = false)
include closed

theorem State.resolveLoad_remote (remote : s.isRemote account = true) :
    s.resolveLoad st account bank template = s.loadRemote st account bank template := by
  rw [State.resolveLoad_ordinary low high, if_neg (by rw [closed]; decide), if_pos remote]

theorem State.resolveLoad_house (here : s.isRemote account = false) :
    s.resolveLoad st account bank template = s.loadHouse st account bank template := by
  rw [State.resolveLoad_ordinary low high, if_neg (by rw [closed]; decide), if_neg (by rw [here]; decide)]

end Ordinary

/-! ### The card slot, remote numbers and house numbers (R46 to R48) -/

theorem State.sessionOpen_iff : s.sessionOpen st = true ↔ ∃ x, s.sessions[st] = some x ∧ x.state = .opened := by
  simp only [State.sessionOpen, Option.any_eq_true, beq_iff_eq]

theorem State.loadCard_noSession (closed : s.sessionOpen st = false) : s.loadCard st bank template = (s, ⟨.noSession, []⟩) := by
  unfold State.loadCard
  cases session : s.sessions[st] with
  | none => rfl
  | some x =>
    refine if_pos fun opened => ?_
    rw [State.sessionOpen_iff.2 ⟨x, session, opened⟩] at closed
    cases closed

section OpenSession
variable {x : Session} (session : s.sessions[st] = some x) (opened : x.state = .opened)
include session opened

theorem State.loadCard_opened :
    s.loadCard st bank template =
      if s.stations[st].flags.cardRuns = false then (s, ⟨.disabled, []⟩)
      else s.loadOn st (cardNumber st) .card x.tier bank template := by
  unfold State.loadCard
  rw [session]
  exact if_neg (not_not_intro opened)

theorem State.loadCard_disabled (disabled : s.stations[st].flags.cardRuns = false) :
    s.loadCard st bank template = (s, ⟨.disabled, []⟩) := by
  rw [State.loadCard_opened session opened, if_pos disabled]

theorem State.loadCard_on (cards : s.stations[st].flags.cardRuns = true) :
    s.loadCard st bank template = s.loadOn st (cardNumber st) .card x.tier bank template := by
  rw [State.loadCard_opened session opened, if_neg (ne_false_of_eq_true cards)]

end OpenSession

theorem State.loadRemote_disabled (disabled : s.stations[st].flags.remoteRuns = false) :
    s.loadRemote st account bank template = (s, ⟨.disabled, []⟩) :=
  if_pos disabled

section Remote
variable (remoteRuns : s.stations[st].flags.remoteRuns = true)
include remoteRuns

theorem State.loadRemote_enabled :
    s.loadRemote st account bank template =
      match s.mirrorOf account with
      | some m => if m.state = .pending then (s, ⟨.busy, []⟩) else s.loadOn st account .mirror m.tier bank template
      | none =>
        if 16 ≤ s.mirrors.length then (s, ⟨.noSlot, []⟩) else s.loadReferral st account bank template :=
  if_neg (ne_false_of_eq_true remoteRuns)

theorem State.loadRemote_pending {m : Mirror} (found : s.mirrorOf account = some m) (pending : m.state = .pending) :
    s.loadRemote st account bank template = (s, ⟨.busy, []⟩) := by
  rw [State.loadRemote_enabled remoteRuns, found]
  exact if_pos pending

theorem State.loadRemote_active {m : Mirror} (found : s.mirrorOf account = some m) (active : m.state = .active) :
    s.loadRemote st account bank template = s.loadOn st account .mirror m.tier bank template := by
  rw [State.loadRemote_enabled remoteRuns, found]
  exact if_neg (by rw [active]; decide)

variable (missing : s.mirrorOf account = none)
include missing

theorem State.loadRemote_noSlot (full : 16 ≤ s.mirrors.length) : s.loadRemote st account bank template = (s, ⟨.noSlot, []⟩) := by
  rw [State.loadRemote_enabled remoteRuns, missing]
  exact if_pos full

theorem State.loadRemote_referral (room : s.mirrors.length < 16) :
    s.loadRemote st account bank template = s.loadReferral st account bank template := by
  rw [State.loadRemote_enabled remoteRuns, missing]
  exact if_neg (Nat.not_le.2 room)

end Remote

theorem State.loadHouse_disabled (disabled : s.stations[st].flags.accountRuns = false) :
    s.loadHouse st account bank template = (s, ⟨.disabled, []⟩) :=
  if_pos disabled

section House
variable (accountRuns : s.stations[st].flags.accountRuns = true)
include accountRuns

theorem State.loadHouse_enabled :
    s.loadHouse st account bank template =
      match s.houseRecord account with
      | none => (s, ⟨.notFound, []⟩)
      | some r =>
        if r.state = .frozen then (s, ⟨.frozen, []⟩)
        else if r.maxRuns ≠ 0 ∧ r.maxRuns ≤ r.credit.runList.length then (s, ⟨.accountBusy, []⟩)
        else s.loadOn st account .house r.tier bank template :=
  if_neg (ne_false_of_eq_true accountRuns)

theorem State.loadHouse_notFound (missing : s.houseRecord account = none) :
    s.loadHouse st account bank template = (s, ⟨.notFound, []⟩) := by
  rw [State.loadHouse_enabled accountRuns, missing]

variable {r : HouseRecord} (found : s.houseRecord account = some r)
include found

theorem State.loadHouse_frozen (frozen : r.state = .frozen) : s.loadHouse st account bank template = (s, ⟨.frozen, []⟩) := by
  rw [State.loadHouse_enabled accountRuns, found]
  exact if_pos frozen

variable (opened : r.state = .opened)
include opened

theorem State.loadHouse_opened :
    s.loadHouse st account bank template =
      if r.maxRuns ≠ 0 ∧ r.maxRuns ≤ r.credit.runList.length then (s, ⟨.accountBusy, []⟩)
      else s.loadOn st account .house r.tier bank template := by
  rw [State.loadHouse_enabled accountRuns, found]
  exact if_neg (by rw [opened]; decide)

theorem State.loadHouse_busy (some_ : r.maxRuns ≠ 0) (full : r.maxRuns ≤ r.credit.runList.length) :
    s.loadHouse st account bank template = (s, ⟨.accountBusy, []⟩) := by
  rw [State.loadHouse_opened accountRuns found opened, if_pos ⟨some_, full⟩]

theorem State.loadHouse_on (room : r.maxRuns = 0 ∨ r.credit.runList.length < r.maxRuns) :
    s.loadHouse st account bank template = s.loadOn st account .house r.tier bank template := by
  rw [State.loadHouse_opened accountRuns found opened, if_neg]
  rintro ⟨some_, full⟩
  rcases room with zero | less
  · exact some_ zero
  · omega

end House

end Load

/-! ### A LOAD at its port (R156, R160) -/

section Exec
variable {s t : State} {st : Station} {f : LoadFields} {template : Template} {r : Response} (heard : s.deaf (.c st) = false)
  (good : readTemplate f = some template)
include heard good

theorem exec_load_draining (draining : s.stations[st].state = .draining) :
    exec (.load (.c st) (.of f)) s = .next ((s.handOn (.c st)).respond (.c st) ⟨.disabled, []⟩) := by
  have drainingThen : (s.handOn (.c st)).stations[st].state = .draining := (s.handOn_station_state _ st).trans draining
  exact request_answered rfl heard
    ((takeLoad_gate st _ good).trans ((State.gate_pass (.inr drainingThen)).trans (if_pos drainingThen)))

/-- On an ENABLED station a LOAD with a good template is answered with what the checks take of it. -/
theorem exec_load (enabled : s.stations[st].state = .enabled)
    (took : (s.handOn (.c st)).loadChecks st f.account template = (t, r)) :
    exec (.load (.c st) (.of f)) s = .next (t.respond (.c st) r) := by
  have enabledThen : (s.handOn (.c st)).stations[st].state = .enabled := (s.handOn_station_state _ st).trans enabled
  have notDraining : (s.handOn (.c st)).stations[st].state ≠ .draining := by
    rw [enabledThen]
    decide
  exact request_answered rfl heard
    ((takeLoad_gate st _ good).trans ((State.gate_pass (.inl enabledThen)).trans ((if_neg notDraining).trans took)))

end Exec

/-- Settles O14: the refusals in the order of the checks. -/
theorem loadRefusals : Obligations.LoadRefusals := by
  unfold Obligations.LoadRefusals
  intro s st f template heard media colour sides refused ordinary
  have good : readTemplate f = some template := readTemplate_some media colour sides
  refine ⟨fun draining => exec_load_draining heard good draining, fun enabled => ?_⟩
  have checked {t : State} {r : Response} (took : (s.handOn (.c st)).loadChecks st f.account template = (t, r)) :
      exec (.load (.c st) (.of f)) s = .next (t.respond (.c st) r) := exec_load heard good enabled took
  have sameJob := s.handOn_job (.c st) st
  refine ⟨fun running => checked (State.loadChecks_busy (by rwa [sameJob])), fun idle => ?_⟩
  have idleThen := sameJob.trans idle
  have sameActive := s.handOn_active (.c st)
  refine ⟨fun noBank => checked (State.loadChecks_noPrices idleThen (sameActive.trans noBank)), fun someBank => ?_⟩
  obtain ⟨bank, active⟩ := Option.ne_none_iff_exists'.1 someBank
  have activeThen := sameActive.trans active
  have sameAdmits := s.handOn_admits (.c st)
  refine ⟨fun full => checked (State.loadChecks_full idleThen activeThen (sameAdmits.trans (s.admits_not.2 full))), fun room => ?_⟩
  have resolved {r : Response} (took : (s.handOn (.c st)).resolveLoad st f.account bank template = (s.handOn (.c st), r)) :
      exec (.load (.c st) (.of f)) s = .next ((s.handOn (.c st)).respond (.c st) r) :=
    checked ((State.loadChecks_resolve idleThen activeThen (sameAdmits.trans (s.admits_iff.2 room))).trans took)
  have sameSession := s.handOn_sessionOpen (.c st) st
  have sameFlags := s.handOn_station_flags (.c st) st
  refine ⟨fun zero => ?card, fun above => resolved (State.resolveLoad_badValue above), fun ⟨low, high⟩ =>
    ⟨fun opened => resolved (State.resolveLoad_sessionOpen low high (sameSession.trans opened)), fun closed =>
      ⟨fun remote => ?remote, fun here => ?house⟩⟩⟩
  case card =>
    rw [zero] at resolved
    refine ⟨fun closed => resolved (State.loadCard_noSession (sameSession.trans closed)), fun opened disabled => ?_⟩
    obtain ⟨x, session, isOpen⟩ := State.sessionOpen_iff.1 (sameSession.trans opened)
    exact resolved (State.loadCard_disabled session isOpen (by rwa [sameFlags]))
  case remote =>
    have remotely {r : Response} (took : (s.handOn (.c st)).loadRemote st f.account bank template = (s.handOn (.c st), r)) :=
      resolved ((State.resolveLoad_remote low high (sameSession.trans closed) ((s.handOn_isRemote _ _).trans remote)).trans took)
    have sameMirror := s.handOn_mirrorOf (.c st) f.account
    refine ⟨fun disabled => remotely (State.loadRemote_disabled (by rwa [sameFlags])), fun enabled => ?_⟩
    have enabledThen : (s.handOn (.c st)).stations[st].flags.remoteRuns = true := by rwa [sameFlags]
    exact ⟨fun m found pending => remotely (State.loadRemote_pending enabledThen (sameMirror.trans found) pending),
      fun missing full =>
        remotely (State.loadRemote_noSlot enabledThen (sameMirror.trans missing) (by rwa [State.handOn_mirrors]))⟩
  case house =>
    have locally {r : Response} (took : (s.handOn (.c st)).loadHouse st f.account bank template = (s.handOn (.c st), r)) :=
      resolved ((State.resolveLoad_house low high (sameSession.trans closed) ((s.handOn_isRemote _ _).trans here)).trans took)
    have sameRecord := s.handOn_houseRecord (.c st) f.account
    refine ⟨fun disabled => locally (State.loadHouse_disabled (by rwa [sameFlags])), fun enabled => ?_⟩
    have enabledThen : (s.handOn (.c st)).stations[st].flags.accountRuns = true := by rwa [sameFlags]
    exact ⟨fun missing => locally (State.loadHouse_notFound enabledThen (sameRecord.trans missing)), fun r found =>
      ⟨fun frozen => locally (State.loadHouse_frozen enabledThen (sameRecord.trans found) frozen), fun opened some_ full =>
        locally (State.loadHouse_busy enabledThen (sameRecord.trans found) opened some_ full)⟩⟩

/-- Settles O12: the three kinds of record a LOAD may open a run on. -/
theorem loadOpensRun : Obligations.LoadOpensRun := by
  unfold Obligations.LoadOpensRun
  intro s st f template bank heard media colour sides enabled idle active room opened answer result
  have good : readTemplate f = some template := readTemplate_some media colour sides
  have resolved {t : State} {r : Response} (took : (s.handOn (.c st)).resolveLoad st f.account bank template = (t, r)) :
      result = .next (t.respond (.c st) r) :=
    exec_load heard good enabled ((State.loadChecks_resolve ((s.handOn_job _ st).trans idle) ((s.handOn_active _).trans active)
      ((s.handOn_admits _).trans (s.admits_iff.2 room))).trans took)
  have sameSession := s.handOn_sessionOpen (.c st) st
  have sameFlags := s.handOn_station_flags (.c st) st
  have openedRun (account : Word) (slot : SlotKind) (tier : Tier) :
      (s.handOn (.c st)).openRun st account slot tier bank template = (opened account slot tier).mapCredit slot account (Credit.join st) := by
    rw [State.openRun_eq, State.newJob, State.handOn_bank, State.handOn_runs, State.handOn_params, State.handOn_bankA,
      State.handOn_bankB, State.handOn_reserved]
    rfl
  refine ⟨fun r low high closed here accountRuns found isOpen maxRuns => ?house, fun x c zero session isOpen cardRuns slot => ?card,
    fun m low high closed remote remoteRuns found isActive => ?mirror⟩
  case house =>
    have foundThen := (s.handOn_houseRecord (.c st) f.account).trans found
    have took := (State.resolveLoad_house low high (sameSession.trans closed) ((s.handOn_isRemote _ _).trans here)).trans
      (State.loadHouse_on (bank := bank) (template := template) (by rwa [sameFlags]) foundThen isOpen maxRuns)
    rw [State.loadOn, openedRun, State.loadAnswer, State.available_house foundThen, State.handOn_bank, State.mapCredit] at took
    exact resolved took
  case card =>
    have sessionThen : (s.handOn (.c st)).sessions[st] = some x := by rwa [State.handOn_sessions]
    have slotThen : (s.handOn (.c st)).cards[st] = some c := by rwa [State.handOn_cards]
    have took := State.loadCard_on (bank := bank) (template := template) sessionThen isOpen (by rwa [sameFlags])
    rw [State.loadOn, openedRun, State.loadAnswer, State.available_card slotThen, State.handOn_bank, State.mapCredit_card,
      show (opened (cardNumber st) .card x.tier).cards[st] = some c from slotThen] at took
    have toCard : (s.handOn (.c st)).resolveLoad st f.account bank template = (s.handOn (.c st)).loadCard st bank template := by
      rw [zero]
      exact State.resolveLoad_card
    exact resolved (toCard.trans took)
  case mirror =>
    have foundThen := (s.handOn_mirrorOf (.c st) f.account).trans found
    have took := (State.resolveLoad_remote low high (sameSession.trans closed) ((s.handOn_isRemote _ _).trans remote)).trans
      (State.loadRemote_active (bank := bank) (template := template) (by rwa [sameFlags]) foundThen isActive)
    rw [State.loadOn, openedRun, State.loadAnswer, State.available_mirror foundThen, State.handOn_bank, State.mapCredit] at took
    exact resolved took

/-! ### The id of a new referral (R120) -/

theorem idAfter_range {i : Nat} (low : 1 ≤ i) (high : i ≤ 255) : 1 ≤ idAfter i ∧ idAfter i ≤ 255 := by
  unfold idAfter Config.referralIdMax
  split <;> omega

theorem freeId_range (held : List Nat) {k i : Nat} (low : 1 ≤ i) (high : i ≤ 255) : 1 ≤ freeId held k i ∧ freeId held k i ≤ 255 := by
  induction k generalizing i with
  | zero => exact ⟨low, high⟩
  | succ k ih =>
    unfold freeId
    split
    · exact ih (idAfter_range low high).1 (idAfter_range low high).2
    · exact ⟨low, high⟩

theorem freeId_of_free {held : List Nat} {i : Nat} (free : i ∉ held) (k : Nat) : freeId held k i = i := by
  cases k with
  | zero => rfl
  | succ k => exact if_neg (by simpa using free)

theorem mem_ids_iff (queue : List Referral) (i : Nat) : i ∈ queue.map (·.id) ↔ ∃ r ∈ queue, r.id = i := List.mem_map

/-- A queue of at most eight leaves one of its length plus one ids in a row free. -/
theorem nextReferralId_not_held {s : State} (few : s.referrals.length ≤ 8) : s.nextReferralId ∉ s.referrals.map (·.id) := by
  intro held
  have all := freeId_all (held := s.referrals.map (·.id)) (k := s.referrals.length) (i := s.referralNextId) held
  have nodup := idsFrom_nodup (k := s.referrals.length) (i := s.referralNextId) few
  have length := (List.subperm_of_subset nodup all).length_le
  rw [idsFrom_length, List.length_map] at length
  omega

/-- Settles O13: the run in REFERRAL with its mirror and its referral, and the id that the referral takes. -/
theorem loadOpensReferral : Obligations.LoadOpensReferral := by
  unfold Obligations.LoadOpensReferral
  refine ⟨?opens, fun s few low high => ⟨(freeId_range _ low high).1, (freeId_range _ low high).2, fun r hr is => ?held, fun free => ?own⟩,
    ?steps⟩
  case opens =>
    intro s st f template bank heard media colour sides enabled idle active room low high closed remote remoteRuns missing slots
    have good : readTemplate f = some template := readTemplate_some media colour sides
    have remoteRunsThen : (s.handOn (.c st)).stations[st].flags.remoteRuns = true := by rwa [State.handOn_station_flags]
    have missingThen := (s.handOn_mirrorOf (.c st) f.account).trans missing
    have toResolve := State.loadChecks_resolve (account := f.account) (template := template) ((s.handOn_job (.c st) st).trans idle)
      ((s.handOn_active _).trans active) ((s.handOn_admits _).trans (s.admits_iff.2 room))
    have toRemote := State.resolveLoad_remote (bank := bank) (template := template) low high
      ((s.handOn_sessionOpen (.c st) st).trans closed) ((s.handOn_isRemote _ _).trans remote)
    have took := State.loadRemote_referral (bank := bank) (template := template) remoteRunsThen missingThen (by rwa [State.handOn_mirrors])
    have sameId : (s.handOn (.c st)).nextReferralId = s.nextReferralId := by
      rw [State.nextReferralId, State.handOn_referrals, State.handOn_referralNextId, State.nextReferralId]
    rw [State.loadReferral, State.openReferral_eq, State.newJob, sameId, State.handOn_bank, State.handOn_runs, State.handOn_params,
      State.handOn_bankA, State.handOn_bankB, State.handOn_reserved, State.handOn_mirrors, State.handOn_referrals] at took
    exact exec_load heard good enabled (toResolve.trans (toRemote.trans took))
  case held => exact nextReferralId_not_held few ((mem_ids_iff _ _).2 ⟨r, hr, is⟩)
  case own =>
    refine freeId_of_free (fun held => ?_) _
    obtain ⟨r, hr, is⟩ := (mem_ids_iff _ _).1 held
    exact free r hr is
  case steps =>
    intro s after
    obtain ⟨steps, is, held⟩ := freeId_steps (s.referrals.map (·.id)) s.referrals.length s.referralNextId
    exact ⟨steps, is, fun k less => (mem_ids_iff _ _).1 (held k less)⟩

end Sys2Proof.Machine

/-! PROOF. Granting sheets (R38, R54 to R59, R122): the tests of one sheet and what it changes, a burst of them, and the answer of a fresh
ADVANCE. -/

namespace Sys2Proof.Machine

/-! ### One sheet (R38, R56, R57) -/

theorem kindMode_mono_iff (k : SheetKind) : kindMode k = .mono ↔ k.val < 8 := by
  unfold kindMode
  split <;> simp <;> omega

theorem kindMode_colour_iff (k : SheetKind) : kindMode k = .colour ↔ 8 ≤ k.val := by
  unfold kindMode
  split <;> simp <;> omega

theorem State.grantSheet_eq (s : State) (st : Station) (j : Job) (k : SheetKind) (sides : Sides) (d grown : Nat) :
    s.grantSheet st j k sides d grown =
      { s.mapCredit j.slot j.account (fun c => { c with held := c.held + grown }) with
        paths := s.paths.set st (s.paths[st] ++ [{ seq := j.granted + 1, kind := k, sides := sides, price := d }])
        runs := s.runs.set st
          { s.runs[st] with
            job := some
              { j with
                charge := j.charge + d
                hold := j.hold + grown
                granted := j.granted + 1
                netMono := if k.val < 8 then j.netMono + 1 else j.netMono
                netColour := if 8 ≤ k.val then j.netColour + 1 else j.netColour } } } := by
  have counts : j.grant (kindMode k) d grown =
      { j with
        charge := j.charge + d
        hold := j.hold + grown
        granted := j.granted + 1
        netMono := if k.val < 8 then j.netMono + 1 else j.netMono
        netColour := if 8 ≤ k.val then j.netColour + 1 else j.netColour } := by
    simp only [Job.grant, kindMode_mono_iff, kindMode_colour_iff]
  rw [State.grantSheet, counts]
  rfl

section Cover
variable {s : State} {j : Job} {d : Nat}

theorem State.coverFor_held (enough : j.neededHold d ≤ j.hold) : s.coverFor j d = .covered 0 := if_pos enough

variable (short : j.hold < j.neededHold d)
include short

theorem State.coverFor_grown {g : Nat} (grown : s.growthFor j.slot j.account (j.neededHold d - j.hold) = .grown g) :
    s.coverFor j d = .covered g := by
  rw [State.coverFor, if_neg (Nat.not_le.2 short), grown]

theorem State.coverFor_failed {why : StopReason} (failed : s.growthFor j.slot j.account (j.neededHold d - j.hold) = .failed why) :
    s.coverFor j d = .short why (j.neededHold d - j.hold) := by
  rw [State.coverFor, if_neg (Nat.not_le.2 short), failed]

end Cover

section TrySheet
variable {s : State} {st : Station} {j : Job} {k : SheetKind} {sides : Sides} (run : s.job st = some j)
include run

/-- The tests of a sheet in their order. -/
theorem State.trySheet_run :
    s.trySheet st k sides =
      if 9999 ≤ j.granted then .stopped .runLimit 0
      else if 16 ≤ s.paths[st].length then .stopped .pathFull 0
      else
        match s.coverFor j (s.priceFor j k sides) with
        | .covered grown => .granted (s.grantSheet st j k sides (s.priceFor j k sides) grown)
        | .short why x => .stopped why x := by
  unfold State.trySheet
  rw [run]
  rfl

theorem State.trySheet_runLimit (full : 9999 ≤ j.granted) : s.trySheet st k sides = .stopped .runLimit 0 := by
  rw [State.trySheet_run run, if_pos full]

variable (room : j.granted < 9999)
include room

theorem State.trySheet_pathFull (full : 16 ≤ s.paths[st].length) : s.trySheet st k sides = .stopped .pathFull 0 := by
  rw [State.trySheet_run run, if_neg (Nat.not_le.2 room), if_pos full]

variable (place : s.paths[st].length < 16)
include place

theorem State.trySheet_covered {g : Nat} (covered : s.coverFor j (s.priceFor j k sides) = .covered g) :
    s.trySheet st k sides = .granted (s.grantSheet st j k sides (s.priceFor j k sides) g) := by
  rw [State.trySheet_run run, if_neg (Nat.not_le.2 room), if_neg (Nat.not_le.2 place), covered]

theorem State.trySheet_short {why : StopReason} {x : Nat} (short : s.coverFor j (s.priceFor j k sides) = .short why x) :
    s.trySheet st k sides = .stopped why x := by
  rw [State.trySheet_run run, if_neg (Nat.not_le.2 room), if_neg (Nat.not_le.2 place), short]

end TrySheet

/-- Settles O17: the limit, the path, the cover, and the sheet that is granted. -/
theorem sheetTestsInOrder : Obligations.SheetTestsInOrder := by
  unfold Obligations.SheetTestsInOrder
  intro s st j k sides run d needed granted
  have isGranted (g : Nat) : s.grantSheet st j k sides d g = granted g := s.grantSheet_eq st j k sides d g
  refine ⟨State.trySheet_runLimit run, State.trySheet_pathFull run, fun room place => ⟨fun enough => ?_, fun g short grown => ?_,
    fun why short failed => ?_⟩⟩
  · rw [State.trySheet_covered run room place (State.coverFor_held enough), isGranted]
  · rw [State.trySheet_covered run room place (State.coverFor_grown short grown), isGranted]
  · exact State.trySheet_short run room place (State.coverFor_failed short failed)

/-! ### A burst (R56) -/

section Burst
variable {st : Station} {k : SheetKind} {sides : Sides}

theorem State.burst_stopped {s : State} {why : StopReason} {x : Nat} (stopped : s.trySheet st k sides = .stopped why x) (count : Nat) :
    State.burst st k sides (count + 1) s = ⟨s, 0, why, x⟩ := by
  rw [State.burst, stopped]

theorem State.burst_granted {s u : State} (granted : s.trySheet st k sides = .granted u) (count : Nat) :
    State.burst st k sides (count + 1) s =
      { State.burst st k sides count u with granted := (State.burst st k sides count u).granted + 1 } := by
  rw [State.burst, granted]

/-- A burst that grants as many sheets as were asked for. -/
theorem State.burst_all {g : Nat} {s t : State} (grants : s.grants st k sides g t) : State.burst st k sides g s = ⟨t, g, .none, 0⟩ := by
  induction g generalizing s with
  | zero =>
    obtain rfl : t = s := grants
    rfl
  | succ g ih =>
    obtain ⟨u, granted, rest⟩ := grants
    rw [State.burst_granted granted, ih rest]

/-- A burst that stops at the first sheet that fails. -/
theorem State.burst_stops {g count : Nat} {s t : State} {why : StopReason} {x : Nat} (grants : s.grants st k sides g t) (less : g < count)
    (stopped : t.trySheet st k sides = .stopped why x) : State.burst st k sides count s = ⟨t, g, why, x⟩ := by
  induction g generalizing s count with
  | zero =>
    obtain ⟨n, rfl⟩ : ∃ n, count = n + 1 := ⟨count - 1, by omega⟩
    obtain rfl : t = s := grants
    exact State.burst_stopped stopped n
  | succ g ih =>
    obtain ⟨n, rfl⟩ : ∃ n, count = n + 1 := ⟨count - 1, by omega⟩
    obtain ⟨u, granted, rest⟩ := grants
    rw [State.burst_granted granted, ih rest (by omega)]

/-- A granted sheet is one of a run. -/
theorem State.trySheet_granted {s u : State} (granted : s.trySheet st k sides = .granted u) :
    ∃ j d grown, s.job st = some j ∧ u = s.grantSheet st j k sides d grown := by
  cases run : s.job st with
  | none =>
    rw [State.trySheet, run] at granted
    cases granted
  | some j =>
    rw [State.trySheet_run run] at granted
    split at granted
    · cases granted
    · split at granted
      · cases granted
      · split at granted
        · cases granted
          exact ⟨j, _, _, rfl, rfl⟩
        · cases granted

/-- What granting sheets leaves as it is: the parameters, the referrals, the latched events, and the run's state and account. -/
theorem State.grants_keeps {g : Nat} {s t : State} {j : Job} (grants : s.grants st k sides g t) (run : s.job st = some j) :
    (t.params = s.params ∧ t.referrals = s.referrals ∧ t.referralNextId = s.referralNextId ∧ t.latched = s.latched) ∧
      ∃ jt, t.job st = some jt ∧ jt.slot = j.slot ∧ jt.account = j.account ∧ jt.state = j.state := by
  induction g generalizing s j with
  | zero =>
    obtain rfl : t = s := grants
    exact ⟨⟨rfl, rfl, rfl, rfl⟩, j, run, rfl, rfl, rfl⟩
  | succ g ih =>
    obtain ⟨u, granted, rest⟩ := grants
    obtain ⟨i, d, grown, runI, rfl⟩ := State.trySheet_granted granted
    obtain rfl : i = j := Option.some.inj (runI.symm.trans run)
    have kept := ih rest (State.grantSheet_job ..)
    exact kept

end Burst

/-! ### The end of a burst (R58, R59) -/

theorem State.endBurst_run {st : Station} {firstSeq : Nat} {e : BurstEnd} {j : Job} (run : e.state.job st = some j) :
    State.endBurst st firstSeq e =
      ((e.state.setJob st (j.endBurst firstSeq e.granted e.stop e.state.params.runIdle)).askTopup st j e.stop e.shortfall,
        (Burst.answer ⟨firstSeq, e.granted, e.stop, j.hold, j.charge⟩)) := by
  rw [State.endBurst, run]

section AskTopup
variable {s : State} {st : Station} {j : Job} {stop : StopReason} {shortfall : Nat}

theorem State.askTopup_none (none_ : ¬ (j.slot = .mirror ∧ stop = .noCredit ∧ s.topupWaits j.account = false)) :
    s.askTopup st j stop shortfall = s := if_neg none_

theorem State.askTopup_asked (mirror : j.slot = .mirror) (noCredit : stop = .noCredit) (first : s.topupWaits j.account = false) :
    s.askTopup st j stop shortfall = s.createReferral .topup st j.account (roundUp shortfall s.params.holdStep) :=
  if_pos ⟨mirror, noCredit, first⟩

end AskTopup

/-- A referral queued on a state with the queue, the counter and the parameters of another. -/
theorem State.createReferral_of_same {s u : State} (referrals : u.referrals = s.referrals) (nextId : u.referralNextId = s.referralNextId)
    (params : u.params = s.params) (kind : ReferralKind) (st : Station) (account : Word) (requested : Nat) :
    u.createReferral kind st account requested =
      { u with
        referrals := s.referrals ++
          [{ id := s.nextReferralId, kind := kind, station := st, account := account, requested := requested, state := .waiting
             timeout := s.params.referralTimeout }]
        referralNextId := idAfter s.nextReferralId
        latched := u.latched ||| 0x00000010#32 } := by
  have sameId : u.nextReferralId = s.nextReferralId := by
    rw [State.nextReferralId, referrals, nextId, State.nextReferralId]
  rw [State.createReferral, sameId, referrals, params]
  rfl

/-! ### An ADVANCE at its port (R156, R160) -/

section Exec
variable {s : State} {st : Station} {f : AdvanceFields} {o : Overrides} (heard : s.deaf (.c st) = false) (served : s.serves st)
  (sized : f.overrides.length ≤ 2) (good : readOverrides f.overrides ⟨none, none⟩ = some o)
include heard served sized good

/-- On an ENABLED or DRAINING station an ADVANCE with good overrides is answered with what the run controller takes of it. -/
theorem exec_advance {t : State} {r : Response} (took : (s.handOn (.c st)).advanceChecks st f o = (t, r)) :
    exec (.advance (.c st) (.of f)) s = .next (t.respond (.c st) r) := by
  have whole : bodyIf (fun f : AdvanceFields => advanceLengthOk f.overrides) (.of f) = .of f := if_pos (decide_eq_true sized)
  have answered := request_answered (code := 0x02) (kind := .station) (link := .c st) rfl heard
    ((takeAdvance_gate st (s.handOn (.c st)) good).trans ((State.gate_pass (State.handOn_serves _ served)).trans took))
  rw [← whole] at answered
  exact answered

end Exec

section AdvanceChecks
variable {s : State} {st : Station} {f : AdvanceFields} {o : Overrides}

theorem State.advanceChecks_idle (idle : s.job st = none) : s.advanceChecks st f o = (s, ⟨.noRun, []⟩) := by
  rw [State.advanceChecks, idle]
  rfl

variable {j : Job} (run : s.job st = some j)
include run

theorem State.advanceChecks_referral (referral : j.state = .referral) : s.advanceChecks st f o = (s, ⟨.referral, []⟩) := by
  rw [State.advanceChecks, run]
  simp only [referral]
  rfl

theorem State.advanceChecks_jammed (jammed : j.state = .jammed) : s.advanceChecks st f o = (s, ⟨.jammed, []⟩) := by
  rw [State.advanceChecks, run]
  simp only [jammed]
  rfl

theorem State.advanceChecks_finishing (finishing : j.state = .finishing) : s.advanceChecks st f o = (s, ⟨.finishing, []⟩) := by
  rw [State.advanceChecks, run]
  simp only [finishing]
  rfl

theorem State.advanceChecks_run (open_ : j.state = .active ∨ j.state = .starved) :
    s.advanceChecks st f o = s.advanceRun st j f o := by
  rw [State.advanceChecks, run]
  rcases open_ with is | is <;> simp only [is]

end AdvanceChecks

section AdvanceRun
variable {s : State} {st : Station} {j : Job} {f : AdvanceFields} {o : Overrides}

theorem State.advanceRun_fresh (fresh : f.firstSeq.toNat = j.granted + 1) :
    s.advanceRun st j f o =
      State.endBurst st (j.granted + 1) (State.burst st (o.kindFor j.template) (o.sidesFor j.template) (burstCount f.count) s) :=
  if_pos fresh

variable (other : f.firstSeq.toNat ≠ j.granted + 1)
include other

theorem State.advanceRun_other :
    s.advanceRun st j f o =
      match j.repeated f.firstSeq.toNat with
      | some b => (s, b.answer)
      | none => (s, ⟨.sequence, []⟩) :=
  if_neg other

theorem State.advanceRun_repeated {b : Burst} (repeated : j.repeated f.firstSeq.toNat = some b) :
    s.advanceRun st j f o = (s, b.answer) := by
  rw [State.advanceRun_other other, repeated]

theorem State.advanceRun_sequence (new : j.repeated f.firstSeq.toNat = none) : s.advanceRun st j f o = (s, ⟨.sequence, []⟩) := by
  rw [State.advanceRun_other other, new]

end AdvanceRun

/-- A fresh burst asks for at least one sheet. -/
theorem one_le_burstCount (count : Byte) : 1 ≤ burstCount count := le_max_left _ _

/-- Settles O18: the burst that grants all its sheets, the one that stops, and the TOPUP it may ask for. -/
theorem advanceGrantsBurst : Obligations.AdvanceGrantsBurst := by
  unfold Obligations.AdvanceGrantsBurst
  intro s t st f o j jt g heard served sized good run open_ fresh grants runT count after stopCode answer result
  have runH := (s.handOn_job (.c st) st).trans run
  obtain ⟨⟨params, referrals, nextId, latched⟩, i, runI, slot, account, state⟩ := State.grants_keeps grants runH
  obtain rfl : i = jt := Option.some.inj (runI.symm.trans runT)
  rw [State.handOn_params] at params
  rw [State.handOn_referrals] at referrals
  rw [State.handOn_referralNextId] at nextId
  have toBurst := (State.advanceChecks_run (f := f) (o := o) runH open_).trans (State.advanceRun_fresh fresh)
  have isAfter (stop : StopReason) : t.setJob st (i.endBurst (j.granted + 1) g stop t.params.runIdle) =
      after (stateAfterBurst j.state g stop) stop := by
    rw [Job.endBurst, state, params]
    rfl
  have ended {stop : StopReason} {x : Nat}
      (burst : State.burst st (o.kindFor j.template) (o.sidesFor j.template) (burstCount f.count) (s.handOn (.c st)) = ⟨t, g, stop, x⟩) :
      result = .next (State.respond ((after (stateAfterBurst j.state g stop) stop).askTopup st i stop x) (.c st) (answer (stopCode stop))) := by
    rw [burst, State.endBurst_run runT, isAfter] at toBurst
    exact exec_advance heard served sized good toBurst
  refine ⟨fun all => ?all, ?stops⟩
  case all =>
    have isCount : g = burstCount f.count := all
    have active : stateAfterBurst j.state g .none = .active := if_pos (by have := one_le_burstCount f.count; omega)
    have burst := State.burst_all grants
    rw [isCount] at burst
    have finished := ended (by rw [isCount]; exact burst)
    rw [State.askTopup_none (by rintro ⟨-, noCredit, -⟩; cases noCredit), active] at finished
    exact finished
  case stops =>
    intro why x less stopped state'
    have finished := ended (State.burst_stops grants less stopped)
    have waits : (after (stateAfterBurst j.state g why) why).topupWaits i.account = s.topupWaits j.account := by
      rw [account]
      exact congrArg (List.any · _) referrals
    refine ⟨fun noTopup => ?_, fun mirror noCredit first => ?_⟩
    · rw [State.askTopup_none] at finished
      · exact finished
      · rintro ⟨mirror, noCredit, first⟩
        rcases noTopup with other | other | waiting
        · exact other (slot.symm.trans mirror)
        · exact other noCredit
        · rw [waits, waiting] at first
          cases first
    · rw [State.askTopup_asked (slot.trans mirror) noCredit (waits.trans first), account] at finished
      have sameParams : (after (stateAfterBurst j.state g why) why).params = s.params := params
      have sameStep : roundUp x (after (stateAfterBurst j.state g why) why).params.holdStep = roundUp x s.params.holdStep := by
        rw [sameParams]
      have sameLatched : (after (stateAfterBurst j.state g why) why).latched = (s.handOn (.c st)).latched := latched
      rw [sameStep, State.createReferral_of_same (u := after (stateAfterBurst j.state g why) why) referrals nextId sameParams, sameLatched] at finished
      exact finished

end Sys2Proof.Machine

/-! PROOF. The other requests of the run controller (R54, R55, R60, R61, R63): the overrides of an ADVANCE, its repeats and its refusals,
QUERY, END_RUN and RUN_ABORT. -/

namespace Sys2Proof.Machine

/-! ### Overrides (R54) -/

theorem readSheetKind_none_iff (v : Byte) : readSheetKind v = none ↔ 15 < v.toNat := by
  unfold readSheetKind
  split <;> simp <;> omega

theorem readSides_none_iff (v : Byte) : readSides v = none ↔ 1 < v.toNat := by
  have zero : v = 0 ↔ v.toNat = 0 := ⟨fun h => by rw [h]; rfl, fun h => BitVec.eq_of_toNat_eq h⟩
  have one : v = 1 ↔ v.toNat = 1 := ⟨fun h => by rw [h]; rfl, fun h => BitVec.eq_of_toNat_eq h⟩
  unfold readSides
  split
  case isTrue is => simp [zero.1 is]
  case isFalse notZero =>
    split
    case isTrue is => simp [one.1 is]
    case isFalse notOne =>
      have := mt zero.2 notZero
      have := mt one.2 notOne
      simp only [true_iff]
      omega

/-- A sheet kind that is read is the value. -/
theorem readSheetKind_val {v : Byte} {k : SheetKind} (read : readSheetKind v = some k) : k.val = v.toNat := by
  unfold readSheetKind at read
  split at read
  · cases read
    rfl
  · cases read

theorem readSides_eq {v : Byte} {sides : Sides} (read : readSides v = some sides) : sides = if v = 0 then .simplex else .duplex := by
  unfold readSides at read
  split at read
  case isTrue is =>
    rw [if_pos is]
    exact (Option.some.inj read).symm
  case isFalse notZero =>
    rw [if_neg notZero]
    split at read
    · exact (Option.some.inj read).symm
    · cases read

section Take
variable {got : Overrides} {o : Override}

theorem Overrides.take_kind (tag : o.tag = 0x01) (absent : got.kind = none) :
    got.take o = (readSheetKind o.value).map (fun k => { got with kind := some k }) :=
  if_pos ⟨tag, absent⟩

theorem Overrides.take_sides (tag : o.tag = 0x02) (absent : got.sides = none) :
    got.take o = (readSides o.value).map (fun v => { got with sides := some v }) := by
  rw [Overrides.take, if_neg (by rw [tag]; exact fun both => absurd both.1 (by decide)), if_pos ⟨tag, absent⟩]

/-- An override whose kind is there, whose sides are there, or whose tag is none of the two is refused. -/
theorem Overrides.take_none (kind : o.tag = 0x01 → got.kind ≠ none) (sides : o.tag = 0x02 → got.sides ≠ none) : got.take o = none := by
  rw [Overrides.take, if_neg fun both => kind both.1 both.2, if_neg fun both => sides both.1 both.2]

end Take

/-- An override that may stand alone. -/
def goodOverride (o : Override) : Prop := (o.tag = 0x01 ∧ o.value.toNat ≤ 15) ∨ (o.tag = 0x02 ∧ o.value.toNat ≤ 1)

theorem goodOverride_iff {o : Override} : ¬ goodOverride o ↔ ¬ (o.tag = 0x01 ∧ o.value.toNat ≤ 15) ∧ ¬ (o.tag = 0x02 ∧ o.value.toNat ≤ 1) :=
  not_or

/-- An override that is not good is refused whatever was read before it. -/
theorem Overrides.take_bad {got : Overrides} {o : Override} (bad : ¬ goodOverride o) : got.take o = none := by
  obtain ⟨notKind, notSides⟩ := goodOverride_iff.1 bad
  by_cases kind : o.tag = 0x01 ∧ got.kind = none
  · rw [Overrides.take_kind kind.1 kind.2, (readSheetKind_none_iff _).2 (Nat.not_le.1 fun low => notKind ⟨kind.1, low⟩)]
    rfl
  · by_cases sides : o.tag = 0x02 ∧ got.sides = none
    · rw [Overrides.take_sides sides.1 sides.2, (readSides_none_iff _).2 (Nat.not_le.1 fun low => notSides ⟨sides.1, low⟩)]
      rfl
    · exact Overrides.take_none (fun tag absent => kind ⟨tag, absent⟩) (fun tag absent => sides ⟨tag, absent⟩)

theorem exists_kind_of_low {o : Override} (low : o.value.toNat ≤ 15) : ∃ k, readSheetKind o.value = some k :=
  Option.ne_none_iff_exists'.1 (mt (readSheetKind_none_iff _).1 (Nat.not_lt.2 low))

theorem exists_sides_of_low {o : Override} (low : o.value.toNat ≤ 1) : ∃ v, readSides o.value = some v :=
  Option.ne_none_iff_exists'.1 (mt (readSides_none_iff _).1 (Nat.not_lt.2 low))

section ReadOverrides
variable {got : Overrides} {o o' : Override}

theorem readOverrides_one : readOverrides [o] got = got.take o := by
  rw [readOverrides]
  cases got.take o <;> rfl

theorem readOverrides_two : readOverrides [o, o'] got = (got.take o).bind (fun next => next.take o') := by
  rw [readOverrides]
  cases got.take o with
  | none => rfl
  | some next => exact readOverrides_one

theorem readOverrides_one_none_iff : readOverrides [o] ⟨none, none⟩ = none ↔ ¬ goodOverride o := by
  rw [readOverrides_one]
  refine ⟨fun refused good => ?_, Overrides.take_bad⟩
  rcases good with ⟨tag, low⟩ | ⟨tag, low⟩
  · obtain ⟨k, read⟩ := exists_kind_of_low low
    rw [Overrides.take_kind tag rfl, read] at refused
    cases refused
  · obtain ⟨v, read⟩ := exists_sides_of_low low
    rw [Overrides.take_sides tag rfl, read] at refused
    cases refused

/-- Two overrides, each good alone, are refused exactly where they have one tag. -/
theorem readOverrides_two_none_iff (good : goodOverride o) (good' : goodOverride o') :
    readOverrides [o, o'] ⟨none, none⟩ = none ↔ o.tag = o'.tag := by
  rw [readOverrides_two]
  rcases good with ⟨tag, low⟩ | ⟨tag, low⟩
  · obtain ⟨k, read⟩ := exists_kind_of_low low
    rw [Overrides.take_kind tag rfl, read, Option.map_some, Option.bind_some, tag]
    rcases good' with ⟨tag', -⟩ | ⟨tag', low'⟩
    · exact iff_of_true (Overrides.take_none (fun _ => nofun) (fun other => by rw [tag'] at other; cases other)) tag'.symm
    · obtain ⟨v, read'⟩ := exists_sides_of_low low'
      rw [Overrides.take_sides tag' rfl, read', tag']
      exact iff_of_false nofun (by decide)
  · obtain ⟨v, read⟩ := exists_sides_of_low low
    rw [Overrides.take_sides tag rfl, read, Option.map_some, Option.bind_some, tag]
    rcases good' with ⟨tag', low'⟩ | ⟨tag', -⟩
    · obtain ⟨k, read'⟩ := exists_kind_of_low low'
      rw [Overrides.take_kind tag' rfl, read', tag']
      exact iff_of_false nofun (by decide)
    · exact iff_of_true (Overrides.take_none (fun other => by rw [tag'] at other; cases other) (fun _ => nofun)) tag'.symm

theorem readOverrides_two_bad (bad : ¬ goodOverride o ∨ ¬ goodOverride o') : readOverrides [o, o'] ⟨none, none⟩ = none := by
  rw [readOverrides_two]
  rcases bad with first | second
  · rw [Overrides.take_bad first]
    rfl
  · cases Overrides.take ⟨none, none⟩ o with
    | none => rfl
    | some next => exact Overrides.take_bad second

end ReadOverrides

section Values
variable {v w : Byte} {o : Overrides}

theorem readOverrides_kind (read : readOverrides [⟨0x01, v⟩] ⟨none, none⟩ = some o) :
    ∃ k, o = ⟨some k, none⟩ ∧ k.val = v.toNat := by
  rw [readOverrides_one, Overrides.take_kind rfl rfl, Option.map_eq_some_iff] at read
  obtain ⟨k, isKind, rfl⟩ := read
  exact ⟨k, rfl, readSheetKind_val isKind⟩

theorem readOverrides_sides (read : readOverrides [⟨0x02, v⟩] ⟨none, none⟩ = some o) :
    o = ⟨none, some (if v = 0 then .simplex else .duplex)⟩ := by
  rw [readOverrides_one, Overrides.take_sides rfl rfl, Option.map_eq_some_iff] at read
  obtain ⟨sides, isSides, rfl⟩ := read
  rw [readSides_eq isSides]

/-- A sheet kind and the sides, in either order. -/
theorem readOverrides_both
    (read : readOverrides [⟨0x01, v⟩, ⟨0x02, w⟩] ⟨none, none⟩ = some o ∨ readOverrides [⟨0x02, w⟩, ⟨0x01, v⟩] ⟨none, none⟩ = some o) :
    ∃ k, o = ⟨some k, some (if w = 0 then .simplex else .duplex)⟩ ∧ k.val = v.toNat := by
  rcases read with read | read <;> rw [readOverrides_two, Option.bind_eq_some_iff] at read
  · obtain ⟨first, readFirst, readSecond⟩ := read
    obtain ⟨k, rfl, isKind⟩ := readOverrides_kind (readOverrides_one.trans readFirst)
    rw [Overrides.take_sides rfl rfl, Option.map_eq_some_iff] at readSecond
    obtain ⟨sides, isSides, rfl⟩ := readSecond
    exact ⟨k, by rw [readSides_eq isSides], isKind⟩
  · obtain ⟨first, readFirst, readSecond⟩ := read
    obtain rfl := readOverrides_sides (readOverrides_one.trans readFirst)
    rw [Overrides.take_kind rfl rfl, Option.map_eq_some_iff] at readSecond
    obtain ⟨k, isKind, rfl⟩ := readSecond
    exact ⟨k, rfl, readSheetKind_val isKind⟩

end Values

/-- The kind that a template gives: its media class, 8 more in colour. -/
theorem kindOf_val (t : Template) : (kindOf t.media t.colour).val = t.media.val + if t.colour = .colour then 8 else 0 := by
  cases t.colour <;> rfl

/-! ### The burst that an ADVANCE repeats (R55) -/

theorem Job.repeated_some {j : Job} {firstSeq : Nat} {b : Burst} (last : j.lastBurst = some b) (same : b.firstSeq = firstSeq)
    (granted : b.granted ≠ 0) : j.repeated firstSeq = some b := by
  rw [Job.repeated, last]
  exact if_pos (by simp [same, granted])

theorem Job.repeated_none {j : Job} {firstSeq : Nat} (other : ∀ b, j.lastBurst = some b → b.firstSeq ≠ firstSeq ∨ b.granted = 0) :
    j.repeated firstSeq = none := by
  refine Option.filter_eq_none_iff.2 fun b last is => ?_
  rw [Bool.and_eq_true, beq_iff_eq, bne_iff_ne] at is
  exact (other b last).elim (fun differs => differs is.1) is.2

/-- Settles O19: what the overrides say, and every ADVANCE that is no fresh burst. -/
theorem advanceOverridesRepeatsAndRefusals : Obligations.AdvanceOverridesRepeatsAndRefusals := by
  unfold Obligations.AdvanceOverridesRepeatsAndRefusals
  refine ⟨⟨fun o => readOverrides_one_none_iff.trans goodOverride_iff, fun o o' read read' => ?_, fun o o' bad => ?_, fun t v w o read => ?_,
    fun t o read => ?_, fun t v o read => ?_, fun t v o read => ?_⟩, ?refusals⟩
  · exact readOverrides_two_none_iff (not_not.1 (mt readOverrides_one_none_iff.2 read)) (not_not.1 (mt readOverrides_one_none_iff.2 read'))
  · exact readOverrides_two_bad (bad.imp readOverrides_one_none_iff.1 readOverrides_one_none_iff.1)
  · obtain ⟨k, rfl, isKind⟩ := readOverrides_both read
    exact ⟨isKind, rfl⟩
  · cases read
    exact ⟨kindOf_val t, rfl⟩
  · obtain ⟨k, rfl, isKind⟩ := readOverrides_kind read
    exact ⟨isKind, rfl⟩
  · obtain rfl := readOverrides_sides read
    exact ⟨kindOf_val t, rfl⟩
  case refusals =>
    intro s st f o heard served sized good stopCode answered
    have taken {r : Response} (took : (s.handOn (.c st)).advanceChecks st f o = (s.handOn (.c st), r)) : answered r :=
      exec_advance heard served sized good took
    have sameJob := s.handOn_job (.c st) st
    refine ⟨fun idle => taken (State.advanceChecks_idle (sameJob.trans idle)), fun j run => ?_⟩
    have runThen := sameJob.trans run
    refine ⟨fun referral => taken (State.advanceChecks_referral runThen referral), fun jammed => taken (State.advanceChecks_jammed runThen jammed),
      fun finishing => taken (State.advanceChecks_finishing runThen finishing), fun open_ other => ⟨fun b last same granted => ?_,
        fun new => ?_⟩⟩
    · exact taken ((State.advanceChecks_run runThen open_).trans (State.advanceRun_repeated other (Job.repeated_some last same granted)))
    · exact taken ((State.advanceChecks_run runThen open_).trans (State.advanceRun_sequence other (Job.repeated_none new)))

/-! ### QUERY (R60) -/

section Query
variable {s : State} {st : Station}

theorem State.queryBody_idle (idle : s.job st = none) :
    s.queryBody st =
      be1 s.stations[st].state.code ++ be1 0 ++ be1 0 ++ be2 0 ++ be1 s.paths[st].length ++ be4 0 ++ be4s 0 ++ be1 0 ++
        be1 s.runs[st].lastOutcome.code ++ be1 (s.sessionCode st) ++ be4s (s.cardBalance st) := by
  rw [State.queryBody, State.runCode, State.runAvailable, idle]
  rfl

theorem State.queryBody_run {j : Job} (run : s.job st = some j) :
    s.queryBody st =
      be1 s.stations[st].state.code ++ be1 0 ++ be1 j.state.code ++ be2 (j.granted + 1) ++ be1 s.paths[st].length ++ be4 j.hold ++
        be4s (s.available j.slot j.account) ++ be1 j.jams ++ be1 s.runs[st].lastOutcome.code ++ be1 (s.sessionCode st) ++
        be4s (s.cardBalance st) := by
  rw [State.queryBody, State.runCode, State.runAvailable, run]
  rfl

theorem State.serves_code (served : s.serves st) : s.stations[st].state.code = if s.stations[st].state = .enabled then 1 else 2 := by
  rcases served with is | is <;> rw [is] <;> rfl

end Query

theorem State.handOn_available (s : State) (link : Link) (slot : SlotKind) (n : Word) :
    (s.handOn link).available slot n = s.available slot n := by
  cases slot <;>
    simp only [State.available, State.creditOf, State.limitOf, State.handOn_houseRecord, State.handOn_mirrorOf, State.handOn_cards]

theorem State.handOn_sessionCode (s : State) (link : Link) (st : Station) : (s.handOn link).sessionCode st = s.sessionCode st := by
  rw [State.sessionCode, State.handOn_sessions, State.sessionCode]

theorem State.handOn_cardBalance (s : State) (link : Link) (st : Station) : (s.handOn link).cardBalance st = s.cardBalance st := by
  rw [State.cardBalance, State.handOn_cards, State.cardBalance]

/-- Settles O20: the answer by whether a run is open. -/
theorem queryAnswers : Obligations.QueryAnswers := by
  unfold Obligations.QueryAnswers
  intro s st heard served sessionCode runCode lastOutcome cardBalance answered
  have taken {body : List Byte} (is : (s.handOn (.c st)).queryBody st = body) :
      exec (.query (.c st) (.of ())) s = .next ((s.handOn (.c st)).respond (.c st) ⟨.ok, body⟩) :=
    gated_answered served heard (congrArg (fun body => (s.handOn (.c st), Response.mk .ok body)) is)
  have sameJob := s.handOn_job (.c st) st
  refine ⟨fun idle => ?_, fun j run => ?_⟩
  · have body := State.queryBody_idle (sameJob.trans idle)
    rw [State.serves_code (State.handOn_serves _ served), State.handOn_station_state, State.handOn_paths, State.handOn_runs,
      State.handOn_sessionCode, State.handOn_cardBalance, State.sessionCode_eq, State.cardBalance_eq] at body
    exact taken body
  · have body := State.queryBody_run (sameJob.trans run)
    rw [State.serves_code (State.handOn_serves _ served), State.handOn_station_state, State.handOn_paths, State.handOn_runs,
      State.handOn_available, State.handOn_sessionCode, State.handOn_cardBalance, State.sessionCode_eq, State.cardBalance_eq] at body
    exact taken body

/-! ### END_RUN and RUN_ABORT (R61, R63) -/

section EndRun
variable {s : State} {st : Station}

theorem State.runCode_idle (idle : s.job st = none) : s.runCode st = 0 := by
  rw [State.runCode, idle]
  rfl

theorem State.runCode_run {j : Job} (run : s.job st = some j) : s.runCode st = j.state.code := by
  rw [State.runCode, run]
  rfl

theorem State.endAnswer_eq {code : Nat} (is : s.runCode st = code) (c : Closing) :
    s.endAnswer st c = ⟨.ok, be1 code ++ be4 c.final ++ be2 c.seq⟩ := by
  rw [State.endAnswer, is, Closing.bytes, ← List.append_assoc]
  rfl

theorem State.closeOnRequest_eq (s : State) (st : Station) (j : Job) (reason : CloseReason) :
    s.closeOnRequest st j reason =
      (s.closeJob st j reason, ⟨.ok, be1 0 ++ be4 ((j.charge + 50) / 100 - j.settled) ++ be2 s.logNext⟩) := by
  rw [State.closeOnRequest, State.endAnswer_eq (s.closeJob_runCode st j reason)]
  rfl

theorem State.cancelOnRequest_eq (s : State) (st : Station) (j : Job) :
    s.cancelOnRequest st j = (s.returnJob st j .cancelled, ⟨.ok, be1 0 ++ be4 0 ++ be2 0⟩) := by
  rw [State.cancelOnRequest, State.endAnswer_eq (s.returnJob_runCode st j .cancelled)]
  rfl

theorem State.endRun_idle (idle : s.job st = none) : s.endRun st = (s, ⟨.ok, be1 0 ++ be4 0 ++ be2 0⟩) := by
  rw [State.endRun, idle]
  exact congrArg (s, ·) (State.endAnswer_eq (State.runCode_idle idle) .none)

variable {j : Job} (run : s.job st = some j)
include run

/-- An open run is ended by its own state. -/
theorem State.endRun_run :
    s.endRun st =
      match j.state with
      | .active => s.endActive st j
      | .starved => s.endActive st j
      | .jammed => s.closeOnRequest st j .normal
      | .finishing => (s, s.endAnswer st .none)
      | .referral => s.cancelOnRequest st j := by
  unfold State.endRun
  simp only [run] <;> rfl

theorem State.endRun_active (open_ : j.state = .active ∨ j.state = .starved) : s.endRun st = s.endActive st j := by
  rw [State.endRun_run run]
  rcases open_ with is | is <;> rw [is]

theorem State.endRun_jammed (jammed : j.state = .jammed) : s.endRun st = s.closeOnRequest st j .normal := by
  rw [State.endRun_run run, jammed]

theorem State.endRun_finishing (finishing : j.state = .finishing) : s.endRun st = (s, ⟨.ok, be1 5 ++ be4 0 ++ be2 0⟩) := by
  have code : s.runCode st = 5 := by rw [State.runCode_run run, finishing]; rfl
  rw [State.endRun_run run, finishing]
  exact congrArg (s, ·) (State.endAnswer_eq code .none)

theorem State.endRun_referral (referral : j.state = .referral) : s.endRun st = s.cancelOnRequest st j := by
  rw [State.endRun_run run, referral]

omit run in
theorem State.endActive_empty (empty : s.paths[st] = []) : s.endActive st j = s.closeOnRequest st j .normal :=
  if_pos (List.isEmpty_iff.2 empty)

omit run in
theorem State.endActive_waits (sheets : s.paths[st] ≠ []) :
    s.endActive st j = (s.setJob st { j with state := .finishing }, ⟨.ok, be1 5 ++ be4 0 ++ be2 0⟩) := by
  have code : (s.setJob st { j with state := .finishing }).runCode st = 5 := by
    rw [State.runCode_run (State.setJob_job ..)]
    rfl
  rw [State.endActive, if_neg (by simpa using sheets), State.endAnswer_eq code]
  rfl

end EndRun

section RunAbort
variable {s : State} {x : Byte} {st : Station}

theorem takeRunAbort_noStation (noStation : 7 < x.toNat) : takeRunAbort x s = (s, ⟨.badValue, []⟩) := by
  unfold takeRunAbort
  rw [readStation_none noStation]
  rfl

variable (number : x.toNat = st.val)
include number

theorem takeRunAbort_idle (idle : s.job st = none) : takeRunAbort x s = (s, ⟨.noRun, []⟩) := by
  unfold takeRunAbort
  rw [readStation_some number]
  simp only [idle]
  rfl

theorem takeRunAbort_run {j : Job} (run : s.job st = some j) :
    takeRunAbort x s = if j.state = .referral then s.cancelOnRequest st j else s.closeOnRequest st j .console := by
  unfold takeRunAbort
  rw [readStation_some number]
  simp only [run]

end RunAbort

/-- Settles O21: END_RUN by the run's state, and RUN_ABORT. -/
theorem endRunAndRunAbort : Obligations.EndRunAndRunAbort := by
  unfold Obligations.EndRunAndRunAbort
  refine ⟨?endRun, ?abort⟩
  case endRun =>
    intro s st heard served answered h
    have taken {t : State} {r : Response} (took : h.endRun st = (t, r)) :
        exec (.endRun (.c st) (.of ())) s = .next (t.respond (.c st) r) := gated_answered served heard took
    have sameJob : h.job st = s.job st := s.handOn_job (.c st) st
    have samePath : h.paths[st] = s.paths[st] := by rw [State.handOn_paths]
    have closes (j : Job) : h.closeOnRequest st j .normal =
        (h.closeJob st j .normal, ⟨.ok, be1 0 ++ be4 ((j.charge + 50) / 100 - j.settled) ++ be2 s.logNext⟩) := by
      rw [State.closeOnRequest_eq, State.handOn_logNext]
    refine ⟨fun idle => taken (State.endRun_idle (sameJob.trans idle)), fun j run => ?_⟩
    have runThen := sameJob.trans run
    refine ⟨fun open_ empty => taken ((State.endRun_active runThen open_).trans ((State.endActive_empty (samePath.trans empty)).trans (closes j))),
      fun open_ sheets => ?_, fun jammed => taken ((State.endRun_jammed runThen jammed).trans (closes j)),
      fun finishing => taken (State.endRun_finishing runThen finishing),
      fun referral => taken ((State.endRun_referral runThen referral).trans (h.cancelOnRequest_eq st j))⟩
    have took := (State.endRun_active runThen open_).trans (State.endActive_waits (by rwa [samePath]))
    rw [State.setJob, State.handOn_runs] at took
    exact taken took
  case abort =>
    intro s x heard answered h
    refine ⟨fun noStation => request_answered rfl heard (takeRunAbort_noStation noStation), fun st number =>
      ⟨fun idle => request_answered rfl heard (takeRunAbort_idle number ((s.handOn_job .m st).trans idle)), fun j run => ?_⟩⟩
    have took := takeRunAbort_run number ((s.handOn_job .m st).trans run)
    refine ⟨fun referral => ?_, fun charging => ?_⟩
    · exact request_answered rfl heard (took.trans ((if_pos referral).trans (h.cancelOnRequest_eq st j)))
    · have closes := took.trans (if_neg charging)
      rw [State.closeOnRequest_eq, State.handOn_logNext] at closes
      exact request_answered rfl heard closes

end Sys2Proof.Machine

/-! PROOF. Deliveries (R39, R62, R66, R75 to R79): bringing out the oldest sheets of a run, the interim it may call for, and DELIVERED. -/

namespace Sys2Proof.Machine

/-! ### Replacing the job of an open run -/

theorem State.setJob_setJob (s : State) (st : Station) (j k : Job) : (s.setJob st j).setJob st k = s.setJob st k := by
  simp [State.setJob]

/-- A restart of the idle timer replaces the job. -/
theorem State.restartIdle_run {s : State} {st : Station} {j : Job} (run : s.job st = some j) :
    s.restartIdle st = s.setJob st { j with idleTimer := some s.params.runIdle } := by
  have isJob : s.runs[st].job = some j := run
  rw [State.restartIdle, isJob]
  rfl

/-! ### Bringing out sheets (R76) -/

/-- The job after `n` sheets are delivered. -/
def Job.delivers (j : Job) (n : Nat) : Job := { j with delivered := j.delivered + n, sinceInterim := j.sinceInterim + n }

/-- The list and the meters after the `n` oldest sheets are delivered. -/
def State.takeOut (s : State) (st : Station) (n : Nat) : State :=
  { s with
    paths := s.paths.set st (s.paths[st].drop n)
    meters := s.meters.set st ((s.paths[st].take n).foldl Meters.deliver s.meters[st]) }

theorem State.deliver_eq {s : State} {st : Station} {j : Job} (run : s.job st = some j) (n : Nat) :
    s.deliver st n = (s.takeOut st n).setJob st (j.delivers (s.paths[st].take n).length) := by
  have isJob : s.runs[st].job = some j := run
  rw [State.deliver, isJob]
  rfl

theorem State.takeOut_path (s : State) (st : Station) (n : Nat) : (s.takeOut st n).paths[st] = s.paths[st].drop n := by
  simp [State.takeOut]

/-! ### The interim (R39, R66, R78) -/

section Interim
variable {s : State} {st : Station} {j : Job} (run : s.job st = some j)
include run

/-- The tests of the interim trigger in their order. -/
theorem State.interim_run :
    s.interim st =
      if s.interimDue j = false then (s, .none)
      else if s.admits = false then (s, .skipped)
      else if j.unsettled s.paths[st] / 100 = 0 then (s.setJob st { j with sinceInterim := 0 }, .made 0 0)
      else (s.settleInterim st j (j.unsettled s.paths[st] / 100), .made (j.unsettled s.paths[st] / 100) s.logNext) := by
  rw [State.interim, run]

theorem State.interim_notDue (notDue : s.interimDue j = false) : s.interim st = (s, .none) := by
  rw [State.interim_run run, if_pos notDue]

variable (due : s.interimDue j = true)
include due

theorem State.interim_skipped (full : s.admits = false) : s.interim st = (s, .skipped) := by
  rw [State.interim_run run, if_neg (ne_false_of_eq_true due), if_pos full]

variable (room : s.admits = true)
include room

theorem State.interim_small (small : j.unsettled s.paths[st] / 100 = 0) :
    s.interim st = (s.setJob st { j with sinceInterim := 0 }, .made 0 0) := by
  rw [State.interim_run run, if_neg (ne_false_of_eq_true due), if_neg (ne_false_of_eq_true room), if_pos small]

theorem State.interim_settled {k : Nat} (units : j.unsettled s.paths[st] / 100 = k) (some_ : k ≠ 0) :
    s.interim st = (s.settleInterim st j k, .made k s.logNext) := by
  rw [State.interim_run run, if_neg (ne_false_of_eq_true due), if_neg (ne_false_of_eq_true room), units, if_neg some_]

end Interim

theorem State.interimDue_iff (s : State) (j : Job) :
    s.interimDue j = true ↔ s.params.interimInterval ≠ 0 ∧ s.params.interimInterval ≤ j.sinceInterim := by
  rw [State.interimDue, Bool.and_eq_true, bne_iff_ne, decide_eq_true_iff]

/-- An interim debit as one step. -/
theorem State.settleInterim_eq (s : State) (st : Station) (j : Job) (k : Nat) :
    s.settleInterim st j k =
      { (s.setJob st { j with settled := j.settled + k, hold := j.hold - k, sinceInterim := 0 }).mapCredit j.slot j.account
          (Credit.interimDebit k) with
        sessions := if j.slot = .card then s.sessions.set st (s.sessions[st].map (fun x => { x with spent := x.spent + k }))
          else s.sessions
        log := s.log ++
          [{ seq := s.logNext
             entry := .runInterim
              { station := st, account := j.account, delivered := j.delivered, amount := k, settled := j.settled + k
                generation := j.generation } }]
        logNext := step16 s.logNext } := rfl

/-- Settles O24: the delivery, and the interim by its tests. -/
theorem sheetsBroughtOut : Obligations.SheetsBroughtOut := by
  unfold Obligations.SheetsBroughtOut
  intro s st j n run out base brought due e k
  have isBrought (job : Job) : (s.takeOut st n).setJob st job = brought job := rfl
  have delivered : s.deliver st n = brought base := State.deliver_eq run n
  have runThen : (brought base).job st = some base := (s.takeOut st n).setJob_job st base
  have isDue : (brought base).interimDue base = true ↔ due := State.interimDue_iff _ _
  have units : base.unsettled (brought base).paths[st] / 100 = k := by
    rw [show (brought base).paths[st] = s.paths[st].drop n from s.takeOut_path st n]
    rfl
  have setBrought (job : Job) : (brought base).setJob st job = brought job := (s.takeOut st n).setJob_setJob st base job
  refine ⟨fun none_ => if_pos none_, fun some_ => ?_⟩
  have toInterim : s.bringOut st n = (brought base).interim st := by
    rw [State.bringOut, if_neg some_, delivered]
  rw [toInterim]
  refine ⟨fun notDue => State.interim_notDue runThen (Bool.eq_false_iff.2 (mt isDue.1 notDue)),
    fun isDue' full => State.interim_skipped runThen (isDue.2 isDue') (s.admits_not.2 full), fun isDue' room => ⟨fun small => ?_, fun large => ?_⟩⟩
  · have none_ : k = 0 := Nat.div_eq_of_lt small
    rw [State.interim_small runThen (isDue.2 isDue') (s.admits_iff.2 room) (units.trans none_), setBrought]
  · have some_ : k ≠ 0 := (Nat.div_pos large (by decide)).ne'
    rw [State.interim_settled runThen (isDue.2 isDue') (s.admits_iff.2 room) units some_, State.settleInterim_eq, setBrought]
    rfl

/-! ### The interim and the idle timer -/

section Restart
variable {s : State} {st : Station} {j : Job} (run : s.job st = some j)
include run

/-- An interim leaves the parameters, the lists and the run's state; the run stays open. -/
theorem State.interim_keeps :
    (s.interim st).1.params = s.params ∧ (s.interim st).1.paths = s.paths ∧
      ∃ k, (s.interim st).1.job st = some k ∧ k.state = j.state := by
  rw [State.interim_run run]
  split
  · exact ⟨rfl, rfl, j, run, rfl⟩
  · split
    · exact ⟨rfl, rfl, j, run, rfl⟩
    · split
      · exact ⟨rfl, rfl, _, State.setJob_job .., rfl⟩
      · exact ⟨rfl, rfl, _, (s.setJob_job st { j with
          settled := j.settled + j.unsettled s.paths[st] / 100, hold := j.hold - j.unsettled s.paths[st] / 100
          sinceInterim := 0 }), rfl⟩

/-- The interim test has no regard for the idle timer: the two may change places. -/
theorem State.restartIdle_interim :
    (s.restartIdle st).interim st = ((s.interim st).1.restartIdle st, (s.interim st).2) := by
  have restarted := State.restartIdle_run run
  have runThen : (s.restartIdle st).job st = some { j with idleTimer := some s.params.runIdle } := by
    rw [restarted]
    exact State.setJob_job ..
  rw [State.interim_run runThen, State.interim_run run]
  have sameDue : (s.restartIdle st).interimDue { j with idleTimer := some s.params.runIdle } = s.interimDue j := rfl
  have sameRoom : (s.restartIdle st).admits = s.admits := rfl
  have sameUnits : Job.unsettled { j with idleTimer := some s.params.runIdle } (s.restartIdle st).paths[st] =
      j.unsettled s.paths[st] := rfl
  rw [sameDue, sameRoom, sameUnits]
  split
  · rfl
  · split
    · rfl
    · split
      · rw [restarted, State.setJob_setJob, State.restartIdle_run (State.setJob_job ..), State.setJob_setJob]
        rfl
      · rw [restarted, State.settleInterim_eq, State.settleInterim_eq, State.setJob_setJob]
        simp [State.restartIdle, State.setJob, State.mapCredit]

end Restart

/-! ### DELIVERED (R75 to R79) -/

theorem deliverable_append {out rest : List PathEntry} {seq : Nat} (upTo : ∀ e ∈ out, e.seq ≤ seq)
    (past : ∀ e, rest.head? = some e → seq < e.seq) : deliverable (out ++ rest) seq = out.length := by
  have stops : rest.takeWhile (fun e => decide (e.seq ≤ seq)) = [] := by
    cases rest with
    | nil => rfl
    | cons e rest => exact List.takeWhile_cons_of_neg (by simpa using past e rfl)
  rw [deliverable, List.takeWhile_append_of_pos (by simpa using upTo), stops, List.append_nil]

theorem InterimResult.bytes_eq (i : InterimResult) :
    i.bytes =
      match i with
      | .none => be1 0 ++ be4 0 ++ be2 0
      | .skipped => be1 1 ++ be4 0 ++ be2 0
      | .made k number => be1 2 ++ be4 k ++ be2 number := by
  cases i <;> rfl

section Answers
variable {s : State} {st : Station}

theorem State.deliveredAnswer_eq {code : Nat} (is : s.runCode st = code) (n delivered : Nat) (i : InterimResult) (c : Closing) :
    s.deliveredAnswer st n delivered i c =
      ⟨.ok, be1 n ++ be1 s.paths[st].length ++ be2 delivered ++ be1 code ++ i.bytes ++ (be4 c.final ++ be2 c.seq)⟩ := by
  rw [State.deliveredAnswer, is, Closing.bytes]
  rfl

variable {j : Job} (run : s.job st = some j)
include run

theorem State.finishIfEmpty_closes (finishing : j.state = .finishing) (empty : s.paths[st] = []) :
    s.finishIfEmpty st = (s.closeJob st j .normal, s.closingOf j) := by
  rw [State.finishIfEmpty, run]
  exact if_pos ⟨finishing, List.isEmpty_iff.2 empty⟩

theorem State.finishIfEmpty_stays (goesOn : j.state ≠ .finishing ∨ s.paths[st] ≠ []) : s.finishIfEmpty st = (s, .none) := by
  rw [State.finishIfEmpty, run]
  refine if_neg fun ⟨finishing, empty⟩ => ?_
  rcases goesOn with other | sheets
  · exact other finishing
  · exact sheets (List.isEmpty_iff.1 empty)

theorem State.delivered_jammed (jammed : j.state = .jammed) (seq : Nat) :
    s.delivered st seq = (s, s.deliveredAnswer st 0 j.delivered .none .none) := by
  rw [State.delivered, run]
  simp only [jammed]

theorem State.delivered_referral (referral : j.state = .referral) (seq : Nat) : s.delivered st seq = (s, ⟨.noRun, []⟩) := by
  rw [State.delivered, run]
  simp only [referral]
  rfl

theorem State.delivered_run (open_ : j.state = .active ∨ j.state = .starved ∨ j.state = .finishing) (seq : Nat) :
    s.delivered st seq = s.deliverUpTo st j seq := by
  rw [State.delivered, run]
  rcases open_ with is | is | is <;> simp only [is]

end Answers

theorem State.delivered_idle {s : State} {st : Station} (idle : s.job st = none) (seq : Nat) : s.delivered st seq = (s, ⟨.noRun, []⟩) := by
  rw [State.delivered, idle]
  rfl

theorem State.deliverUpTo_nothing {s : State} {st : Station} {seq : Nat} (nothing : deliverable s.paths[st] seq = 0) (j : Job) :
    s.deliverUpTo st j seq = (s, s.deliveredAnswer st 0 j.delivered .none .none) :=
  if_pos nothing

/-- What a delivery of one or more sheets leaves: the state of the delivery and its interim with the idle timer restarted, and then
the close of a FINISHING run whose list is empty. -/
theorem State.deliverUpTo_sheets {s t : State} {st : Station} {j : Job} {seq n : Nat} {i : InterimResult} (run : s.job st = some j)
    (many : deliverable s.paths[st] seq = n) (some_ : n ≠ 0) (brought : s.bringOut st n = (t, i)) :
    s.deliverUpTo st j seq =
      (((t.restartIdle st).finishIfEmpty st).1,
        ((t.restartIdle st).finishIfEmpty st).1.deliveredAnswer st n (j.delivered + n) i ((t.restartIdle st).finishIfEmpty st).2) := by
  have interim : (s.deliver st n).interim st = (t, i) := by
    rw [← brought, State.bringOut, if_neg some_]
  have restarted : ((s.deliver st n).restartIdle st).interim st = (t.restartIdle st, i) := by
    rw [State.restartIdle_interim (State.deliver_job run n), interim]
  rw [State.deliverUpTo, many, if_neg some_, State.deliverSheets]
  simp only [restarted]

/-- What bringing out sheets leaves. -/
theorem State.bringOut_keeps {s t : State} {st : Station} {j jt : Job} {n : Nat} {i : InterimResult} (run : s.job st = some j)
    (brought : s.bringOut st n = (t, i)) (runT : t.job st = some jt) :
    t.params = s.params ∧ t.paths[st] = s.paths[st].drop n ∧ jt.state = j.state := by
  by_cases none_ : n = 0
  · rw [State.bringOut, if_pos none_] at brought
    cases brought
    rw [none_, List.drop_zero]
    exact ⟨rfl, rfl, by rw [Option.some.inj (runT.symm.trans run)]⟩
  · rw [State.bringOut, if_neg none_] at brought
    obtain ⟨params, paths, k, runK, state⟩ := State.interim_keeps (State.deliver_job run n)
    rw [brought] at params paths runK
    refine ⟨params, ?_, ?_⟩
    · rw [show t.paths = (s.deliver st n).paths from paths, State.deliver_eq run n]
      exact s.takeOut_path st n
    · rw [Option.some.inj (runT.symm.trans runK)]
      exact state

/-- Settles O25: the delivery with its interim, the close that it may bring, and the DELIVERED that delivers nothing. -/
theorem deliveredDelivers : Obligations.DeliveredDelivers := by
  unfold Obligations.DeliveredDelivers
  refine ⟨?delivers, ?nothing⟩
  case delivers =>
    intro s t st j jt seq out rest i heard served run open_ path sheets upTo past brought runT interim jr restarted answer
    have runH := (s.handOn_job (.c st) st).trans run
    have pathH : (s.handOn (.c st)).paths[st] = out ++ rest := by rwa [State.handOn_paths]
    obtain ⟨params, pathT, state⟩ := State.bringOut_keeps runH brought runT
    rw [State.handOn_params] at params
    rw [pathH, List.drop_left] at pathT
    have isRestarted : t.restartIdle st = restarted := by
      rw [State.restartIdle_run runT, params]
      rfl
    have runR : restarted.job st = some jr := by
      rw [← isRestarted, State.restartIdle_job runT, params]
    have pathR : restarted.paths[st] = rest := pathT
    have many : deliverable (s.handOn (.c st)).paths[st] seq.toNat = out.length := by
      rw [pathH]
      exact deliverable_append upTo past
    have took := (State.delivered_run runH open_ seq.toNat).trans
      (State.deliverUpTo_sheets runH many (mt List.length_eq_zero_iff.1 sheets) brought)
    rw [isRestarted] at took
    refine ⟨fun goesOn => ?_, fun finishing empty => ?_⟩
    · have stays := State.finishIfEmpty_stays runR (show jr.state ≠ .finishing ∨ restarted.paths[st] ≠ [] by rwa [pathR, show jr.state = j.state from state])
      have code : restarted.runCode st = j.state.code := by
        rw [State.runCode_run runR, show jr.state = j.state from state]
      rw [stays, State.deliveredAnswer_eq code, pathR, InterimResult.bytes_eq] at took
      exact gated_answered (fields := seq) served heard took
    · have closes := State.finishIfEmpty_closes runR (state.trans finishing) (pathR.trans empty)
      have pathC : (restarted.closeJob st jr .normal).paths[st] = rest := by
        rw [State.path_set (State.closeJob_paths ..), if_pos rfl, empty]
      rw [closes, State.deliveredAnswer_eq (restarted.closeJob_runCode st jr .normal), pathC, InterimResult.bytes_eq] at took
      exact gated_answered (fields := seq) served heard took
  case nothing =>
    intro s st seq heard served answered
    have taken {r : Response} (took : (s.handOn (.c st)).delivered st seq.toNat = (s.handOn (.c st), r)) : answered r :=
      gated_answered (fields := seq) served heard took
    refine ⟨fun idle => taken (State.delivered_idle ((s.handOn_job _ st).trans idle) _), fun j run => ?_⟩
    have runH := (s.handOn_job (.c st) st).trans run
    have answer := State.deliveredAnswer_eq (State.runCode_run runH) 0 j.delivered .none .none
    rw [State.handOn_paths] at answer
    refine ⟨fun referral => taken (State.delivered_referral runH referral _), fun nothing => taken (Eq.trans ?_ (congrArg _ answer))⟩
    by_cases jammed : j.state = .jammed
    · exact State.delivered_jammed runH jammed _
    · obtain ⟨notReferral, past⟩ := nothing.resolve_left jammed
      have open_ : j.state = .active ∨ j.state = .starved ∨ j.state = .finishing := by
        cases state : j.state <;> simp_all
      have none_ : deliverable (s.handOn (.c st)).paths[st] seq.toNat = 0 := by
        rw [State.handOn_paths]
        exact deliverable_append (out := []) (by simp) past
      exact (State.delivered_run runH open_ _).trans (State.deliverUpTo_nothing none_ j)

end Sys2Proof.Machine

/-! PROOF. Jams (R80 to R86): the sheets a jam loses, JAM by the run's state, and CLEAR. -/

namespace Sys2Proof.Machine

/-! ### The lost sheets (R82) -/

/-- The job that credits the sheets `back` and disputes `disputed` more. -/
def Job.losses (j : Job) (back : List PathEntry) (disputed : Nat) : Job :=
  { j with
    charge := j.charge - (back.map (fun e => e.price)).sum
    credited := j.credited + back.length
    disputed := j.disputed + disputed
    netMono := j.netMono - back.countP (fun e => e.kind.val < 8)
    netColour := j.netColour - back.countP (fun e => 8 ≤ e.kind.val) }

theorem Job.losses_losses (j : Job) (back back' : List PathEntry) (m n : Nat) :
    (j.losses back m).losses back' n = j.losses (back ++ back') (m + n) := by
  simp only [Job.losses, List.map_append, List.sum_append, List.length_append, List.countP_append, Nat.sub_sub, Nat.add_assoc]

theorem Job.lose_credited {j : Job} (within : j.credited < j.jamAllowance) (e : PathEntry) : j.lose e = j.losses [e] 0 := by
  rw [Job.lose, if_pos within]
  simp only [kindMode_mono_iff, kindMode_colour_iff]
  by_cases mono : e.kind.val < 8
  · simp [Job.losses, mono, Nat.not_le.2 mono]
  · simp [Job.losses, mono, Nat.not_lt.1 mono]

theorem Job.lose_disputed {j : Job} (spent : j.jamAllowance ≤ j.credited) (e : PathEntry) : j.lose e = j.losses [] 1 :=
  if_neg (Nat.not_lt.2 spent)

/-- The oldest lost sheets are credited while the allowance lasts, the others disputed. -/
theorem Job.loseAll_eq (lost : List PathEntry) (j : Job) :
    j.loseAll lost =
      j.losses (lost.take (j.jamAllowance - j.credited)) (lost.length - (lost.take (j.jamAllowance - j.credited)).length) := by
  induction lost generalizing j with
  | nil =>
    rw [List.take_nil]
    rfl
  | cons e lost ih =>
    have step : j.loseAll (e :: lost) = (j.lose e).loseAll lost := rfl
    rw [step, ih]
    rcases Nat.lt_or_ge j.credited j.jamAllowance with within | spent
    · obtain ⟨n, left⟩ : ∃ n, j.jamAllowance - j.credited = n + 1 := ⟨_, (Nat.succ_pred_eq_of_pos (Nat.sub_pos_of_lt within)).symm⟩
      have leftThen : (j.losses [e] 0).jamAllowance - (j.losses [e] 0).credited = n := by
        show j.jamAllowance - (j.credited + 1) = n
        omega
      rw [Job.lose_credited within, leftThen, left, Job.losses_losses, List.take_succ_cons, List.length_cons, List.length_cons,
        Nat.add_sub_add_right, Nat.zero_add]
      rfl
    · have leftThen : (j.losses [] 1).jamAllowance - (j.losses [] 1).credited = 0 := Nat.sub_eq_zero_of_le spent
      rw [Job.lose_disputed spent, leftThen, Nat.sub_eq_zero_of_le spent, Job.losses_losses]
      simp only [List.take_zero, List.length_nil, Nat.sub_zero, List.length_cons, List.append_nil, Nat.add_comm 1]

/-! ### Counting a jam (R83) -/

/-- The job of a counted jam. -/
def Job.countsJam (j : Job) (idle : Nat) : Job := { j with jams := min 255 (j.jams + 1), idleTimer := some idle }

theorem jamsUp_eq (n : Nat) : jamsUp n = min 255 (n + 1) := by
  rw [jamsUp, Config.jamsStop]
  split <;> omega

theorem State.countJam_eq (s : State) (st : Station) (j : Job) :
    s.countJam st j =
      { s with
        runs := s.runs.set st { s.runs[st] with job := some (j.countsJam s.params.runIdle) }
        meters := s.meters.set st { s.meters[st] with jam := (s.meters[st].jam + 1) % 1000000000 }
        latched := s.latched ||| 0x00000004#32 } := by
  rw [State.countJam, jamsUp_eq]
  rfl

theorem State.countJam_counts (s : State) (st : Station) (j : Job) : (s.countJam st j).job st = some (j.countsJam s.params.runIdle) := by
  rw [State.countJam_job, jamsUp_eq]
  rfl

theorem State.loseSheets_job (s : State) (st : Station) (j : Job) :
    (s.loseSheets st j).job st = some ((j.loseAll s.paths[st]).countsJam s.params.runIdle) :=
  State.countJam_counts ..

theorem State.loseSheets_eq (s : State) (st : Station) (j : Job) :
    s.loseSheets st j =
      { s with
        paths := s.paths.set st []
        runs := s.runs.set st { s.runs[st] with job := some ((j.loseAll s.paths[st]).countsJam s.params.runIdle) }
        meters := s.meters.set st { s.meters[st] with jam := (s.meters[st].jam + 1) % 1000000000 }
        latched := s.latched ||| 0x00000004#32 } :=
  State.countJam_eq ..

/-! ### JAM (R80 to R85) -/

section EndJam
variable {s : State} {st : Station} {j : Job}

theorem State.endJam_closes (finishing : j.state = .finishing) : s.endJam st j = (s.closeJob st j .normal, s.closingOf j) :=
  if_pos finishing

theorem State.endJam_jams (goesOn : j.state ≠ .finishing) : s.endJam st j = (s.enterJammed st j, .none) := if_neg goesOn

theorem State.enterJammed_runCode (s : State) (st : Station) (j : Job) : (s.enterJammed st j).runCode st = 4 :=
  State.runCode_run ((s.setJob_job st { j with state := .jammed }))

theorem State.jamAnswer_eq {code : Nat} (is : s.runCode st = code) (reached recovered credited disputed : Nat) (i : InterimResult)
    (charge nextSeq jams final seq : Nat) :
    s.jamAnswer st ⟨reached, recovered, credited, disputed, i, charge, nextSeq, jams, ⟨final, seq⟩⟩ =
      ⟨.ok, be1 reached ++ be1 recovered ++ be1 credited ++ be1 disputed ++ i.bytes ++ be4 charge ++ be2 nextSeq ++ be1 jams ++
        be1 code ++ (be4 final ++ be2 seq)⟩ := by
  rw [State.jamAnswer, is, Closing.bytes]
  rfl

end EndJam

/-- What a jam of an open run does once its sheets are brought out. -/
theorem State.jamRun_brought {s t u : State} {st : Station} {j jt : Job} {last recovered : Nat} {out rest : List PathEntry}
    {i : InterimResult} (path : s.paths[st] = out ++ rest) (reached : deliverable s.paths[st] last = out.length)
    (brought : s.bringOut st (out.length + min recovered rest.length) = (t, i)) (runT : t.job st = some jt) {jl : Job}
    (counted : (t.loseSheets st jt).job st = some jl) {c : Closing} (ended : (t.loseSheets st jt).endJam st jl = (u, c)) :
    s.jamRun st j last recovered =
      (u,
        u.jamAnswer st
          { reached := out.length, recovered := min recovered rest.length, credited := jl.credited - jt.credited
            disputed := jl.disputed - jt.disputed, interim := i, charge := jl.charge, nextSeq := jl.granted + 1, jams := jl.jams
            closing := c }) := by
  have more : s.paths[st].length - out.length = rest.length := by
    rw [path, List.length_append, Nat.add_sub_cancel_left]
  have job₁ : t.jobOr st j = jt := by rw [State.jobOr, runT, Option.getD_some]
  have job₂ : (t.loseSheets st jt).jobOr st jt = jl := by rw [State.jobOr, counted, Option.getD_some]
  rw [State.jamRun]
  simp only [reached, more, brought, job₁, job₂, ended]
  rfl

section Jam
variable {s : State} {st : Station} {last recovered : Nat}

theorem State.jam_idle (idle : s.job st = none) : s.jam st last recovered = (s, ⟨.noRun, []⟩) := by
  rw [State.jam, idle]
  rfl

variable {j : Job} (run : s.job st = some j)
include run

theorem State.jam_referral (referral : j.state = .referral) : s.jam st last recovered = (s, ⟨.noRun, []⟩) := by
  rw [State.jam, run]
  simp only [referral]
  rfl

theorem State.jam_jammed (jammed : j.state = .jammed) : s.jam st last recovered = s.jamAgain st j := by
  rw [State.jam, run]
  simp only [jammed]

theorem State.jam_run (open_ : j.state = .active ∨ j.state = .starved ∨ j.state = .finishing) :
    s.jam st last recovered = s.jamRun st j last recovered := by
  rw [State.jam, run]
  rcases open_ with is | is | is <;> simp only [is]

end Jam

/-- Settles O26: the sheets brought out, the lost ones by the allowance, and the run's end by whether it was FINISHING. -/
theorem jamLosesSheets : Obligations.JamLosesSheets := by
  unfold Obligations.JamLosesSheets
  intro s t st j jt f out rest i heard served run open_ path upTo past more brought runT interim lost back jl after answer
  have runH := (s.handOn_job (.c st) st).trans run
  have pathH : (s.handOn (.c st)).paths[st] = out ++ rest := by rwa [State.handOn_paths]
  obtain ⟨params, pathT, state⟩ := State.bringOut_keeps runH brought runT
  rw [State.handOn_params] at params
  rw [pathH, List.drop_append, List.drop_of_length_le (Nat.le_add_right _ _), List.nil_append, Nat.add_sub_cancel_left] at pathT
  have isLost : t.paths[st] = lost := pathT
  have isJob : (jt.loseAll t.paths[st]).countsJam t.params.runIdle = jl := by
    rw [isLost, params, Job.loseAll_eq]
    rfl
  have counted : (t.loseSheets st jt).job st = some jl := (t.loseSheets_job st jt).trans (congrArg some isJob)
  have isAfter : t.loseSheets st jt = after jl := by
    rw [State.loseSheets_eq, isJob]
  have many : deliverable (s.handOn (.c st)).paths[st] f.lastDelivered.toNat = out.length := by
    rw [pathH]
    exact deliverable_append upTo past
  have credited : jl.credited - jt.credited = back.length := Nat.add_sub_cancel_left ..
  have disputed : jl.disputed - jt.disputed = lost.length - back.length := Nat.add_sub_cancel_left ..
  have isInterim : i.bytes = interim := i.bytes_eq
  have took {u : State} {code final seq : Nat} (ended : (after jl).endJam st jl = (u, ⟨final, seq⟩)) (is : u.runCode st = code) :
      exec (.jam (.c st) (.of f)) s = .next (u.respond (.c st) (answer code (be4 final ++ be2 seq))) := by
    have took := (State.jam_run runH open_).trans
      (State.jamRun_brought pathH many brought runT counted ((congrArg (fun u => u.endJam st jl) isAfter).trans ended))
    rw [State.jamAnswer_eq is, isInterim, credited, disputed] at took
    exact gated_answered (fields := f) served heard took
  refine ⟨fun goesOn => ?_, fun finishing => ?_⟩
  · have jams : (after jl).endJam st jl = ((after jl).enterJammed st jl, .none) :=
      State.endJam_jams (by rwa [show jl.state = j.state from state])
    have entered : (after jl).enterJammed st jl =
        { after { jl with state := .jammed } with jamTimers := t.jamTimers.set st (some s.params.jamTimer) } := by
      rw [← params, State.enterJammed, State.setJob]
      simp [State.setJamTimer, after]
    rw [← entered]
    exact took jams (State.enterJammed_runCode ..)
  · have closes : (after jl).endJam st jl = ((after jl).closeJob st jl .normal, (after jl).closingOf jl) :=
      State.endJam_closes (state.trans finishing)
    exact took closes ((after jl).closeJob_runCode st jl .normal)

theorem State.jamAgain_eq {s : State} {st : Station} {j : Job} (jammed : j.state = .jammed) :
    s.jamAgain st j =
      (s.countJam st j,
        ⟨.ok, be1 0 ++ be1 0 ++ be1 0 ++ be1 0 ++ (be1 0 ++ be4 0 ++ be2 0) ++ be4 j.charge ++ be2 (j.granted + 1) ++
          be1 (min 255 (j.jams + 1)) ++ be1 4 ++ (be4 0 ++ be2 0)⟩) := by
  have code : (s.countJam st j).runCode st = 4 := by
    rw [State.runCode_run (State.countJam_counts ..), show (j.countsJam s.params.runIdle).state = .jammed from jammed]
    rfl
  rw [State.jamAgain, State.jamAnswer_eq code, jamsUp_eq]
  rfl

/-! ### CLEAR (R86) -/

section Clear
variable {s : State} {st : Station}

theorem State.clearJam_eq (s : State) (st : Station) (j : Job) :
    s.clearJam st j =
      { s with
        runs := s.runs.set st { s.runs[st] with job := some { j with state := .active, idleTimer := some s.params.runIdle } }
        jamTimers := s.jamTimers.set st none } := rfl

theorem State.clear_jammed {j : Job} (run : s.job st = some j) (jammed : j.state = .jammed) :
    s.clear st = (s.clearJam st j, ⟨.ok, be1 2 ++ be4 j.hold ++ be4 j.charge ++ be2 (j.granted + 1)⟩) := by
  rw [State.clear, run]
  exact if_pos jammed

theorem State.clear_other (other : ∀ j, s.job st = some j → j.state ≠ .jammed) :
    s.clear st = (s, ⟨.ok, be1 (s.runCode st) ++ be4 0 ++ be4 0 ++ be2 0⟩) := by
  rw [State.clear]
  cases run : s.job st with
  | none => rfl
  | some j => exact if_neg (other j run)

end Clear

/-- Settles O27: the JAMs that find no open run and the one in JAMMED, and CLEAR. -/
theorem jamCountedAndClear : Obligations.JamCountedAndClear := by
  unfold Obligations.JamCountedAndClear
  refine ⟨?jam, ?clear⟩
  case jam =>
    intro s st f heard served h
    have sameJob : h.job st = s.job st := s.handOn_job (.c st) st
    have taken {t : State} {r : Response} (took : h.jam st f.lastDelivered.toNat f.recovered.toNat = (t, r)) :
        exec (.jam (.c st) (.of f)) s = .next (t.respond (.c st) r) :=
      gated_answered (fields := f) served heard took
    refine ⟨fun idle => taken (State.jam_idle (sameJob.trans idle)),
      fun j run referral => taken (State.jam_referral (sameJob.trans run) referral), fun j run jammed => ?_⟩
    have took := (State.jam_jammed (last := f.lastDelivered.toNat) (recovered := f.recovered.toNat) (sameJob.trans run) jammed).trans
      (State.jamAgain_eq jammed)
    rw [State.countJam_eq, State.handOn_runs, State.handOn_meters, State.handOn_params] at took
    exact taken took
  case clear =>
    intro s st heard served h
    have sameJob : h.job st = s.job st := s.handOn_job (.c st) st
    have taken {t : State} {r : Response} (took : h.clear st = (t, r)) :
        exec (.clear (.c st) (.of ())) s = .next (t.respond (.c st) r) :=
      gated_answered (fields := ()) served heard took
    refine ⟨fun j run jammed => ?_, fun other => ?_⟩
    · have took := State.clear_jammed (sameJob.trans run) jammed
      rw [State.clearJam_eq, State.handOn_runs, State.handOn_jamTimers, State.handOn_params] at took
      exact taken took
    · have took := State.clear_other (s := h) (st := st) (by rwa [sameJob])
      cases run : s.job st with
      | none =>
        rw [State.runCode_idle (sameJob.trans run)] at took
        exact taken took
      | some j =>
        rw [State.runCode_run (sameJob.trans run)] at took
        exact taken took

end Sys2Proof.Machine
